-- ==== Sys2Proof/Word.lean ====
section
/-! DEFINITION. The widths of the block's words (spec/00_scope.md R9, R11). -/
namespace Sys2Proof

/-- A byte: a character code, a segment bitmap, a bus datum or a chip register (R9, R58). -/
abbrev Byte := BitVec 8

/-- A command word, bit 0 least significant (R11, R70). -/
abbrev CmdWord := BitVec 64

/-- A bus address of `ADDR_W` = 7 bits (R9, decision D29). -/
abbrev BusAddr := BitVec 7

/-- The random input and its latch, 20 bits (R9, R21, R23). -/
abbrev RandomWord := BitVec 20

end Sys2Proof
end

