-- ==== Sys2Proof/Syntax.lean ====
section
/-! DEFINITION. The instructions: one constructor per row of spec/opcode_table.json. The rows of formats
N, D, B, T and CMD64 are command words (spec/30_encoding.md R70 to R79), the rows of format LUT8 are codes
on the glyph LUT port (R81). A command carries the bits its format ignores (R78) beside its operands,
because the whole presented word is latched into `S.cmd` (spec/41_sequencer_commands.md R160). -/
namespace Sys2Proof

inductive Instr where
  /-- INIT, OP 0x1, format N (R72, R140). -/
  | init (ign : BitVec 60)
  /-- WTEXT, OP 0x2, format T (R75, R145). -/
  | wtext (dc : BitVec 8) (len : BitVec 4) (c0 c1 c2 c3 c4 c5 : Byte)
  /-- WRAND, OP 0x3, format D (R73, R150). -/
  | wrand (dc : BitVec 8) (ign : BitVec 52)
  /-- RSTDISP, OP 0x4, format D (R73, R153). -/
  | rstdisp (dc : BitVec 8) (ign : BitVec 52)
  /-- SETBRT, OP 0x5, format B (R74, R155): `ignLo` is bits 15:12, `ignHi` bits 63:32. -/
  | setbrt (dc : BitVec 8) (ignLo : BitVec 4) (pct : BitVec 16) (ignHi : BitVec 32)
  /-- ILLEGAL, OP 0x0 (R171). -/
  | illegal0 (rest : BitVec 60)
  /-- ILLEGAL, OP 0x6 (R171). -/
  | illegal6 (rest : BitVec 60)
  /-- ILLEGAL, OP 0x7 (R171). -/
  | illegal7 (rest : BitVec 60)
  /-- ILLEGAL, OP 0x8 (R171). -/
  | illegal8 (rest : BitVec 60)
  /-- ILLEGAL, OP 0x9 (R171). -/
  | illegal9 (rest : BitVec 60)
  /-- ILLEGAL, OP 0xA (R171). -/
  | illegalA (rest : BitVec 60)
  /-- ILLEGAL, OP 0xB (R171). -/
  | illegalB (rest : BitVec 60)
  /-- ILLEGAL, OP 0xC (R171). -/
  | illegalC (rest : BitVec 60)
  /-- ILLEGAL, OP 0xD (R171). -/
  | illegalD (rest : BitVec 60)
  /-- ILLEGAL, OP 0xE (R171). -/
  | illegalE (rest : BitVec 60)
  /-- ILLEGAL, OP 0xF (R171). -/
  | illegalF (rest : BitVec 60)
  /-- LUT code 0x30 (R102). -/
  | glyph0
  /-- LUT code 0x31 (R102). -/
  | glyph1
  /-- LUT code 0x32 (R102). -/
  | glyph2
  /-- LUT code 0x33 (R102). -/
  | glyph3
  /-- LUT code 0x34 (R102). -/
  | glyph4
  /-- LUT code 0x35 (R102). -/
  | glyph5
  /-- LUT code 0x36 (R102). -/
  | glyph6
  /-- LUT code 0x37 (R102). -/
  | glyph7
  /-- LUT code 0x38 (R102). -/
  | glyph8
  /-- LUT code 0x39 (R102). -/
  | glyph9
  /-- Any other LUT code (R103). -/
  | glyphBlank (code : Byte)
deriving DecidableEq, Repr

end Sys2Proof
end

