-- ==== Sys2Proof/WellFormed.lean ====
section
/-! DEFINITION. Which terms of Instr stand for an encoding. Every operand value of a command is legal
(spec/30_encoding.md R73 to R75: DC, LEN and PCT are never out of range, spec/60_exceptions.md R176); the
one check is that GLYPH_BLANK's code is none of the ten digit codes (R81, R103). -/
namespace Sys2Proof

/-- The ten codes 0x30 to 0x39 that select a glyph of their own (R81). -/
def isDigitCode (c : Byte) : Bool := 0x30 ≤ c && c ≤ 0x39

/-- The instruction is the decoding of some encoding. -/
def Instr.wellFormed : Instr → Bool
  | .init _ => true
  | .wtext _ _ _ _ _ _ _ _ => true
  | .wrand _ _ => true
  | .rstdisp _ _ => true
  | .setbrt _ _ _ _ => true
  | .illegal0 _ | .illegal6 _ | .illegal7 _ | .illegal8 _ | .illegal9 _ | .illegalA _ => true
  | .illegalB _ | .illegalC _ | .illegalD _ | .illegalE _ | .illegalF _ => true
  | .glyph0 | .glyph1 | .glyph2 | .glyph3 | .glyph4 => true
  | .glyph5 | .glyph6 | .glyph7 | .glyph8 | .glyph9 => true
  | .glyphBlank c => !isDigitCode c

end Sys2Proof
end

