-- ==== Sys2Proof/Decode.lean ====
section
/-! DEFINITION. The decoder and the encoder (spec/30_encoding.md). An instruction reaches the block by one
of two ports: a 64-bit command word (R70), serialized as eight bytes with byte k = bits [8k+7:8k]
(spec/20_memory.md R56), or one byte on the glyph LUT port (R81). -/
namespace Sys2Proof

/-! ### The fields of a command word (R72 to R76) -/

/-- OP = bits 3:0 (R70). -/
def opField (w : CmdWord) : BitVec 4 := w.extractLsb' 0 4
/-- DC = bits 11:4 (R76). -/
def dcField (w : CmdWord) : BitVec 8 := w.extractLsb' 4 8
/-- LEN = bits 15:12 (R76). -/
def lenField (w : CmdWord) : BitVec 4 := w.extractLsb' 12 4
/-- C[i] = bits [23+8i:16+8i] (R76). -/
def charField (w : CmdWord) (i : Nat) : Byte := w.extractLsb' (16 + 8 * i) 8
/-- PCT = bits 31:16, read as two's complement by its users (R76). -/
def pctField (w : CmdWord) : BitVec 16 := w.extractLsb' 16 16

/-! ### The decoders -/

/-- The command decoder: total, by OP alone (R77, R79). OP has four bits, so the last case is 0xF. -/
def decodeCmd (w : CmdWord) : Instr :=
  match (opField w).toNat with
  | 0x0 => .illegal0 (w.extractLsb' 4 60)
  | 0x1 => .init (w.extractLsb' 4 60)
  | 0x2 => .wtext (dcField w) (lenField w) (charField w 0) (charField w 1) (charField w 2)
      (charField w 3) (charField w 4) (charField w 5)
  | 0x3 => .wrand (dcField w) (w.extractLsb' 12 52)
  | 0x4 => .rstdisp (dcField w) (w.extractLsb' 12 52)
  | 0x5 => .setbrt (dcField w) (lenField w) (pctField w) (w.extractLsb' 32 32)
  | 0x6 => .illegal6 (w.extractLsb' 4 60)
  | 0x7 => .illegal7 (w.extractLsb' 4 60)
  | 0x8 => .illegal8 (w.extractLsb' 4 60)
  | 0x9 => .illegal9 (w.extractLsb' 4 60)
  | 0xA => .illegalA (w.extractLsb' 4 60)
  | 0xB => .illegalB (w.extractLsb' 4 60)
  | 0xC => .illegalC (w.extractLsb' 4 60)
  | 0xD => .illegalD (w.extractLsb' 4 60)
  | 0xE => .illegalE (w.extractLsb' 4 60)
  | _ => .illegalF (w.extractLsb' 4 60)

/-- The LUT decoder: an exact match on all eight bits (R81). -/
def decodeLut (c : Byte) : Instr :=
  match c.toNat with
  | 0x30 => .glyph0
  | 0x31 => .glyph1
  | 0x32 => .glyph2
  | 0x33 => .glyph3
  | 0x34 => .glyph4
  | 0x35 => .glyph5
  | 0x36 => .glyph6
  | 0x37 => .glyph7
  | 0x38 => .glyph8
  | 0x39 => .glyph9
  | _ => .glyphBlank c

/-- What the decoder makes of a string of bytes: an instruction, or a rejection by name. -/
inductive Decoded where
  | instr (i : Instr)
  /-- Neither one LUT code nor one command word (R70, R80: there is one command length). -/
  | badLength (n : Nat)
deriving DecidableEq, Repr

/-- The decoder over bytes, total: one byte is a code on the LUT port, eight bytes are a command word,
little-endian (R56). -/
def decode : List Byte → Decoded
  | [c] => .instr (decodeLut c)
  | [b0, b1, b2, b3, b4, b5, b6, b7] => .instr (decodeCmd (b7 ++ b6 ++ b5 ++ b4 ++ b3 ++ b2 ++ b1 ++ b0))
  | bs => .badLength bs.length

/-! ### The encoder, written from the same tables -/

/-- A word of format N, or of an illegal opcode: OP and the 60 bits above it (R72). -/
def wordOp (op : BitVec 4) (rest : BitVec 60) : CmdWord := rest ++ op
/-- A word of format D (R73). -/
def wordD (op : BitVec 4) (dc : BitVec 8) (ign : BitVec 52) : CmdWord := ign ++ dc ++ op
/-- A word of format B (R74). -/
def wordB (op : BitVec 4) (dc : BitVec 8) (ignLo : BitVec 4) (pct : BitVec 16) (ignHi : BitVec 32) : CmdWord :=
  ignHi ++ pct ++ ignLo ++ dc ++ op
/-- A word of format T (R75). -/
def wordT (op : BitVec 4) (dc : BitVec 8) (len : BitVec 4) (c0 c1 c2 c3 c4 c5 : Byte) : CmdWord :=
  c5 ++ c4 ++ c3 ++ c2 ++ c1 ++ c0 ++ len ++ dc ++ op

/-- The eight bytes of a command word, byte k = bits [8k+7:8k] (R56). -/
def wordBytes (w : CmdWord) : List Byte :=
  [w.extractLsb' 0 8, w.extractLsb' 8 8, w.extractLsb' 16 8, w.extractLsb' 24 8,
   w.extractLsb' 32 8, w.extractLsb' 40 8, w.extractLsb' 48 8, w.extractLsb' 56 8]

/-- The word of a command, the code of a lookup. -/
inductive Encoded where
  | word (w : CmdWord)
  | code (c : Byte)
deriving DecidableEq, Repr

/-- Which port an instruction uses and what stands on it (R77, R81). -/
def Instr.encoded : Instr → Encoded
  | .init ign => .word (wordOp 0x1 ign)
  | .wtext dc len c0 c1 c2 c3 c4 c5 => .word (wordT 0x2 dc len c0 c1 c2 c3 c4 c5)
  | .wrand dc ign => .word (wordD 0x3 dc ign)
  | .rstdisp dc ign => .word (wordD 0x4 dc ign)
  | .setbrt dc ignLo pct ignHi => .word (wordB 0x5 dc ignLo pct ignHi)
  | .illegal0 rest => .word (wordOp 0x0 rest)
  | .illegal6 rest => .word (wordOp 0x6 rest)
  | .illegal7 rest => .word (wordOp 0x7 rest)
  | .illegal8 rest => .word (wordOp 0x8 rest)
  | .illegal9 rest => .word (wordOp 0x9 rest)
  | .illegalA rest => .word (wordOp 0xA rest)
  | .illegalB rest => .word (wordOp 0xB rest)
  | .illegalC rest => .word (wordOp 0xC rest)
  | .illegalD rest => .word (wordOp 0xD rest)
  | .illegalE rest => .word (wordOp 0xE rest)
  | .illegalF rest => .word (wordOp 0xF rest)
  | .glyph0 => .code 0x30
  | .glyph1 => .code 0x31
  | .glyph2 => .code 0x32
  | .glyph3 => .code 0x33
  | .glyph4 => .code 0x34
  | .glyph5 => .code 0x35
  | .glyph6 => .code 0x36
  | .glyph7 => .code 0x37
  | .glyph8 => .code 0x38
  | .glyph9 => .code 0x39
  | .glyphBlank c => .code c

/-- The bytes of an instruction. -/
def encode (i : Instr) : List Byte :=
  match i.encoded with
  | .word w => wordBytes w
  | .code c => [c]

/-- A character slot as the format reads it: slot `i` is ignored when `i >= LEN` (R75). -/
def slotIfPresent (len : BitVec 4) (i : Nat) (c : Byte) : Byte := if i < len.toNat then c else 0

/-- The instruction with every bit its format ignores cleared (R75, R78 (b)). The bits above an illegal
opcode are read by nothing (R171), so they are cleared too; a lookup has no ignored bits. -/
def Instr.clearIgnored : Instr → Instr
  | .init _ => .init 0
  | .wtext dc len c0 c1 c2 c3 c4 c5 =>
      .wtext dc len (slotIfPresent len 0 c0) (slotIfPresent len 1 c1) (slotIfPresent len 2 c2)
        (slotIfPresent len 3 c3) (slotIfPresent len 4 c4) (slotIfPresent len 5 c5)
  | .wrand dc _ => .wrand dc 0
  | .rstdisp dc _ => .rstdisp dc 0
  | .setbrt dc _ pct _ => .setbrt dc 0 pct 0
  | .illegal0 _ => .illegal0 0
  | .illegal6 _ => .illegal6 0
  | .illegal7 _ => .illegal7 0
  | .illegal8 _ => .illegal8 0
  | .illegal9 _ => .illegal9 0
  | .illegalA _ => .illegalA 0
  | .illegalB _ => .illegalB 0
  | .illegalC _ => .illegalC 0
  | .illegalD _ => .illegalD 0
  | .illegalE _ => .illegalE 0
  | .illegalF _ => .illegalF 0
  | .glyph0 => .glyph0
  | .glyph1 => .glyph1
  | .glyph2 => .glyph2
  | .glyph3 => .glyph3
  | .glyph4 => .glyph4
  | .glyph5 => .glyph5
  | .glyph6 => .glyph6
  | .glyph7 => .glyph7
  | .glyph8 => .glyph8
  | .glyph9 => .glyph9
  | .glyphBlank c => .glyphBlank c

/-- A word whose OP is illegal (R78 (a), R171). -/
def Instr.isIllegal : Instr → Bool
  | .illegal0 _ | .illegal6 _ | .illegal7 _ | .illegal8 _ | .illegal9 _ | .illegalA _ => true
  | .illegalB _ | .illegalC _ | .illegalD _ | .illegalE _ | .illegalF _ => true
  | .init _ | .wtext _ _ _ _ _ _ _ _ | .wrand _ _ | .rstdisp _ _ | .setbrt _ _ _ _ => false
  | .glyph0 | .glyph1 | .glyph2 | .glyph3 | .glyph4 => false
  | .glyph5 | .glyph6 | .glyph7 | .glyph8 | .glyph9 | .glyphBlank _ => false

/-- A legal command other than INIT (R172). -/
def Instr.needsInit : Instr → Bool
  | .wtext _ _ _ _ _ _ _ _ | .wrand _ _ | .rstdisp _ _ | .setbrt _ _ _ _ => true
  | .init _ => false
  | .illegal0 _ | .illegal6 _ | .illegal7 _ | .illegal8 _ | .illegal9 _ | .illegalA _ => false
  | .illegalB _ | .illegalC _ | .illegalD _ | .illegalE _ | .illegalF _ => false
  | .glyph0 | .glyph1 | .glyph2 | .glyph3 | .glyph4 => false
  | .glyph5 | .glyph6 | .glyph7 | .glyph8 | .glyph9 | .glyphBlank _ => false

/-- An instruction of the command port: INIT, a legal command, or an illegal word (R79). -/
def Instr.isCommandWord (i : Instr) : Bool :=
  match i.encoded with
  | .word _ => true
  | .code _ => false

/-! ### The host's numbering of the opcode table -/

/-- The bytes that stand for a row of the opcode table (log entry 10). A row of format CMD64 and its kind
fixes bits 3:0 only, so it may come as 8 bits below 0x10: the operand bits above are zero. Any other
8-bit word is a code on the LUT port; a wider one, up to 64 bits, is a command word. -/
def tableBytes (nbits w : Nat) : List Byte :=
  if 64 < nbits then []
  else if nbits ≤ 8 && 0x10 ≤ w then [BitVec.ofNat 8 w]
  else wordBytes (BitVec.ofNat 64 w)

/-- The instruction the decoder reads from a row's word. -/
def decodeTableWord (nbits w : Nat) : Option Instr :=
  match decode (tableBytes nbits w) with
  | .instr i => some i
  | .badLength _ => none

end Sys2Proof
end

