-- ==== Sys2Proof/Config.lean ====
section
/-! DEFINITION. The straps fixed for a build (spec/00_scope.md R9), the environment's OPEN parameters
(`CHIP_DEFAULTS`, `DIGIT_MAP`), and the protocol constants (R122). The straps are a record that State
carries and no step writes, so a statement over every state holds for every build. Where the spec leaves
a parameter OPEN, the build that State.reset carries takes it from a constant with no body, so nothing
can be proved about its value (log entries 1 to 5). -/
namespace Sys2Proof

/-- The two display targets; "no other digit count is valid" (R10). -/
inductive DisplayTarget where
  | fourDigit
  | sixDigit
deriving DecidableEq, Repr, Inhabited

/-- `CHIP_DEFAULTS` of one driver chip (R185, R205): the value each chip register has after the chip's
own power-on, and (all but the pointer, R191) after a chip reset; and the current in mA per segment that its
default current limit means, of which the source says that it is "higher" than 20 mA (R185, D28). -/
structure ChipDefaults where
  stg   : Vector Byte 6
  live  : Vector Byte 6
  pwm   : Byte
  light : Byte
  ptr   : Byte
  milliamps : Nat
deriving DecidableEq, Repr, Inhabited

/-- The parameters of one build and its two modules (R9, R185, R193). -/
structure Config where
  /-- `ADDR_4`, OPEN (R9, D12). -/
  addr4 : BusAddr
  /-- `ADDR_6`, OPEN, distinct from `ADDR_4` (R9, D12): distinctness is a clause of the invariant. -/
  addr6 : BusAddr
  /-- `COMMIT_PAYLOAD` (R9, R131, D13). -/
  commitPayload : Byte
  /-- `RESET_PAYLOAD` (R9, R132, D13). -/
  resetPayload : Byte
  /-- The entries of `GLYPH_TABLE` for '2' to '8', in that order: the part of the ROM that R102 lets a
  model take as a parameter, because the source elides it (D3). The rest of the ROM is fixed. -/
  glyphs2to8 : Vector Byte 7
  /-- `CHIP_DEFAULTS` of the chip at `ADDR_4`, OPEN (R185, D28). -/
  defaults4 : ChipDefaults
  /-- `CHIP_DEFAULTS` of the chip at `ADDR_6`, OPEN (R185, D28). -/
  defaults6 : ChipDefaults
  /-- `DIGIT_MAP` of the four-digit module, OPEN (R193, D27). -/
  digitMap4 : Vector (Fin 4) 4
  /-- `DIGIT_MAP` of the six-digit module, OPEN (R193, D27). -/
  digitMap6 : Vector (Fin 6) 6
deriving DecidableEq, Repr

/-- The standard glyphs of R102 for '2' to '8' [from general knowledge, D3]. -/
def Config.standardGlyphs : Vector Byte 7 := #v[0x5B, 0x4F, 0x66, 0x6D, 0x7D, 0x07, 0x7F]

/-! The protocol constants of R54 and R122 ("must be reproduced exactly"). -/

def REG_DATA : Byte := 0x01
def REG_COMMIT : Byte := 0x0C
def REG_LIGHT : Byte := 0x0D
def REG_PWM : Byte := 0x19
def REG_RESET : Byte := 0xFF
def CUR_MAX : Byte := 0x0B
def CUR_MIN : Byte := 0x08
def DUTY_MIN : Byte := 0x00
def DUTY_MAX : Byte := 0x80

/-- OPEN value of `ADDR_4` (D12). -/
opaque Config.openAddr4 : BusAddr
/-- OPEN value from which `ADDR_6` is taken (D12). -/
opaque Config.openAddr6 : BusAddr
/-- OPEN power-on values of the chip at `ADDR_4` (D28). -/
opaque Config.openDefaults4 : ChipDefaults
/-- OPEN power-on values of the chip at `ADDR_6` (D28). -/
opaque Config.openDefaults6 : ChipDefaults
/-- OPEN digit map of the four-digit module (D27). -/
opaque Config.openDigitMap4 : Vector (Fin 4) 4
/-- OPEN digit map of the six-digit module (D27). -/
opaque Config.openDigitMap6 : Vector (Fin 6) 6

/-- Defaults whose current limit is above 20 mA (R185, D28), whatever values they are made from: a code that
means 20 or 10 mA gives way to another one, and the current stands from 21 mA on. -/
def ChipDefaults.raised (d : ChipDefaults) : ChipDefaults :=
  { d with
    light := if d.light = CUR_MAX ∨ d.light = CUR_MIN then 0x00 else d.light
    milliamps := 21 + d.milliamps }

/-- The build that State.reset carries: OPEN parameters are the constants above, the others the values
R9 gives. The two addresses are any pair of distinct ones: `openAddr6` stands unless it collides. -/
def Config.build : Config where
  addr4 := Config.openAddr4
  addr6 := if Config.openAddr6 = Config.openAddr4 then Config.openAddr4 + 1 else Config.openAddr6
  commitPayload := 0x00
  resetPayload := 0x00
  glyphs2to8 := Config.standardGlyphs
  defaults4 := Config.openDefaults4.raised
  defaults6 := Config.openDefaults6.raised
  digitMap4 := Config.openDigitMap4
  digitMap6 := Config.openDigitMap6

/-- `ADDR_4` or `ADDR_6` by target (R10). -/
def Config.addr (cfg : Config) : DisplayTarget → BusAddr
  | .fourDigit => cfg.addr4
  | .sixDigit => cfg.addr6

/-- `CHIP_DEFAULTS` of the chip of a target (R185). -/
def Config.defaults (cfg : Config) : DisplayTarget → ChipDefaults
  | .fourDigit => cfg.defaults4
  | .sixDigit => cfg.defaults6

end Sys2Proof
end

