-- ==== Sys2Proof/Machine/State.lean ====
section
/-! DEFINITION. The state of the machine as plain data: the sequencer state of spec/10_state.md R23, the
values on the input ports (R21, R22) with the environment's liberties (spec/60_exceptions.md R180 to R184,
R196), the bus master's open transaction (R181, R186), the two driver chips (R185) and the build's straps
(spec/00_scope.md R9). The only memory the block addresses is the glyph ROM, which is fixed (R50, R51); the
chips' registers are its write-only address space (spec/20_memory.md R53 to R55). -/
namespace Sys2Proof.Machine

/-- The sequencer state `S` of R23: exactly these fields. -/
structure Sequencer where
  /-- `S.active`: a command is being sequenced (BUSY). -/
  active : Bool
  /-- `S.cmd`: the latched command word. -/
  cmd : CmdWord
  /-- `S.rnd`: the latched random value. -/
  rnd : RandomWord
  /-- `S.upc`: the index of the next event, the block's program counter (R27). -/
  upc : BitVec 4
  /-- `S.init_done`: INIT has been accepted since reset. -/
  initDone : Bool
  /-- `S.err_illegal`, sticky. -/
  errIllegal : Bool
  /-- `S.err_noinit`, sticky. -/
  errNoinit : Bool
  /-- `S.err_rng`, sticky. -/
  errRng : Bool
deriving DecidableEq, Repr

/-- The reset values of R23 and R201. -/
def Sequencer.reset : Sequencer where
  active := false
  cmd := 0
  rnd := 0
  upc := 0
  initDone := false
  errIllegal := false
  errNoinit := false
  errRng := false

/-- What the environment does in one step: the input ports of R21 and R22, and three liberties of the
environment's agents that no port shows. -/
structure Inputs where
  /-- Port `rst` (R21). -/
  rst : Bool
  /-- Port `cmd_valid` (R21). -/
  cmdValid : Bool
  /-- Port `cmd_word` (R21). -/
  cmdWord : CmdWord
  /-- Port `rng_value`, driven by the random source (R21, R183). -/
  rngValue : RandomWord
  /-- Port `enc_char` (R21). -/
  encChar : Byte
  /-- Port `ev_ready` (R22). -/
  evReady : Bool
  /-- Port `bus_status`; read by nothing in the block (R22). -/
  busStatus : Byte
  /-- The bus master delivers the event it accepts to the addressed chip; false drops it and with it
  the tail of its transaction (R181, D35). -/
  deliver : Bool
  /-- The chip at `ADDR_4` is power-cycled (R196, R204). -/
  cycle4 : Bool
  /-- The chip at `ADDR_6` is power-cycled (R196, R204). -/
  cycle6 : Bool
deriving DecidableEq, Repr

/-- An open transaction, as the bus master and the addressed chip know it (R181, R186). -/
structure OpenTxn where
  /-- The address its `START` carried. -/
  addr : BusAddr
  /-- Its register-address byte has passed: later bytes are data (R186). -/
  ptrSet : Bool
  /-- A part of it was not delivered, so its tail is not delivered either (R181). -/
  cut : Bool
deriving DecidableEq, Repr

/-- One driver chip, as far as the source describes it (R185). -/
structure Chip where
  /-- `STG[1..6]`, register addresses 0x01 to 0x06. -/
  stg : Vector Byte 6
  /-- `LIVE[1..6]`, what the segments show. -/
  live : Vector Byte 6
  /-- `PWM`, register 0x19. -/
  pwm : Byte
  /-- `LIGHT`, register 0x0D. -/
  light : Byte
  /-- `PTR`, the register pointer. -/
  ptr : Byte
deriving DecidableEq, Repr

/-- A chip just powered on: every register at `CHIP_DEFAULTS` (R185, R196). -/
def Chip.powerOn (d : ChipDefaults) : Chip where
  stg := d.stg
  live := d.live
  pwm := d.pwm
  light := d.light
  ptr := d.ptr

/-- An event on the bus side (R120). -/
inductive Event where
  | start (a : BusAddr)
  | byte (b : Byte)
  | stop
deriving DecidableEq, Repr

structure State where
  /-- The straps; no step writes them (R9, R32). -/
  cfg : Config
  /-- `S` (R23). -/
  seq : Sequencer
  /-- The values on the input ports in the latest step. -/
  inputs : Inputs
  /-- The environment's coming moves, one per step, nearest first (log entry 6). -/
  schedule : List Inputs
  /-- The transaction the bus master has open (R181). -/
  txn : Option OpenTxn
  /-- The driver chip at `ADDR_4`. -/
  chip4 : Chip
  /-- The driver chip at `ADDR_6`. -/
  chip6 : Chip
deriving DecidableEq, Repr

/-- Why the machine stops. All three are raised by an emission step alone, in states that R24, R55 and
R61 exclude and no run from reset reaches; the spec gives no effect there. Stopping is safe. -/
inductive Fault where
  /-- Raised by an emission step whose `S.upc` indexes no event of the latched command (R24). Safe. -/
  | noEventAtUpc
  /-- Raised when a `BYTE` is emitted while no transaction is open (R61). Safe. -/
  | byteOutsideTransaction
  /-- Raised when a data byte reaches a chip whose `PTR` names a register the spec does not describe
  (R55, R185: "Registers the block never writes are not modelled"). Safe. -/
  | unmodelledChipRegister
deriving DecidableEq, Repr

/-- Why the model gives no meaning. -/
inductive Refusal where
  /-- Raised by exec for an instruction that has no meaning yet: none is left. Safe. -/
  | notModelled (mnemonic : String)
deriving DecidableEq, Repr

/-- The outcome of a step. -/
abbrev Result := Host.Outcome State Fault Refusal

/-- The environment at rest: nothing presented, nothing reset, and a bus master that accepts and delivers
(log entry 7). -/
def Inputs.reset : Inputs where
  rst := false
  cmdValid := false
  cmdWord := 0
  rngValue := 0
  encChar := 0
  evReady := true
  busStatus := 0
  deliver := true
  cycle4 := false
  cycle6 := false

/-- The machine of a given build right after block reset (R201), before any other step; both chips as they
powered on (R205). Nothing is presented and no program is loaded. -/
def State.resetOf (cfg : Config) : State where
  cfg := cfg
  seq := Sequencer.reset
  inputs := Inputs.reset
  schedule := []
  txn := none
  chip4 := Chip.powerOn cfg.defaults4
  chip6 := Chip.powerOn cfg.defaults6

/-- The machine right after reset, its OPEN parameters left open (Config.build). -/
def State.reset : State := State.resetOf Config.build

end Sys2Proof.Machine
end

