-- ==== Sys2Proof/Machine/Operands.lean ====
section
/-! DEFINITION. The operand forms: digit-count normalization (spec/10_state.md R26), the glyph ROM
(spec/40_glyph_encoder.md R102, R103), the brightness mapping and the decimal formatting
(spec/41_sequencer_commands.md R123, R124), and the range of the random value (R150). -/
namespace Sys2Proof.Machine

/-! ### Digit count (R26) -/

/-- `Target(DC)`: "any value other than exactly 4 is treated as SixDigit". -/
def target (dc : BitVec 8) : DisplayTarget := if dc = 4 then .fourDigit else .sixDigit

/-- The number of positions of a target (R10). -/
def positions : DisplayTarget → Nat
  | .fourDigit => 4
  | .sixDigit => 6

/-- `N(DC)`. -/
def digitCount (dc : BitVec 8) : Nat := positions (target dc)

/-- `Addr(DC)`. -/
def busAddr (cfg : Config) (dc : BitVec 8) : BusAddr := cfg.addr (target dc)

/-! ### The glyph ROM (R50, R102, R103) -/

/-- `ROM(c)`, read by the LUT port and by staging alike (R104). The entries of '0', '1' and '9' are the
source's; those of '2' to '8' are the build's (R102, D3). -/
def rom (cfg : Config) (c : Byte) : Byte :=
  match c.toNat with
  | 0x30 => 0x3F
  | 0x31 => 0x06
  | 0x32 => cfg.glyphs2to8[0]
  | 0x33 => cfg.glyphs2to8[1]
  | 0x34 => cfg.glyphs2to8[2]
  | 0x35 => cfg.glyphs2to8[3]
  | 0x36 => cfg.glyphs2to8[4]
  | 0x37 => cfg.glyphs2to8[5]
  | 0x38 => cfg.glyphs2to8[6]
  | 0x39 => 0x6F
  | _ => 0x00

/-! ### Brightness (R123) -/

/-- `clamp(x, lo, hi) = min(max(x, lo), hi)` (R11). -/
def clamp (x lo hi : Int) : Int := min (max x lo) hi

/-- `Duty(p)` in its exact integer form, `(64 * q + 25) div 50` with `q = clamp(p, 0, 100)` (R123). -/
def duty (p : Int) : Byte := BitVec.ofNat 8 ((64 * (clamp p 0 100).toNat + 25) / 50)

/-! ### Text (R76, R124, R130) -/

/-- The six character slots as one list, position 0 first. -/
def slots (c0 c1 c2 c3 c4 c5 : Byte) : Vector Byte 6 := #v[c0, c1, c2, c3, c4, c5]

/-- The code of a decimal digit: '0' is 0x30 (R81, D2). -/
def digitCode (d : Nat) : Byte := BitVec.ofNat 8 (0x30 + d)

/-- `Dec(r)`: six decimal digits, most significant first (R124). -/
def decimal (r : RandomWord) : Vector Byte 6 :=
  #v[digitCode (r.toNat / 100000 % 10), digitCode (r.toNat / 10000 % 10), digitCode (r.toNat / 1000 % 10),
     digitCode (r.toNat / 100 % 10), digitCode (r.toNat / 10 % 10), digitCode (r.toNat % 10)]

/-- `g(0), ..., g(n-1)` of R130: the glyph of the character where the text has one, blank elsewhere. -/
def stagedBytes (cfg : Config) (n len : Nat) (cs : Vector Byte 6) : List Byte :=
  ((cs.toList.take n).zipIdx).map fun (c, i) => if i < len then rom cfg c else 0x00

/-- `100000 <= r <= 999998`: the source's range [100000, 999999) (R150). -/
def rngInRange (r : RandomWord) : Bool := 100000 ≤ r.toNat && r.toNat ≤ 999998

end Sys2Proof.Machine
end

