-- ==== Sys2Proof/Machine/Events.lean ====
section
/-! DEFINITION. The event list of every command (spec/41_sequencer_commands.md R120 to R155). -/
namespace Sys2Proof.Machine

/-- `Txn(a, [b0, ..., bk])` (R13, R121). -/
def txnEvents (a : BusAddr) (bs : List Byte) : List Event :=
  .start a :: (bs.map Event.byte ++ [.stop])

/-- `Stage(DC, LEN, C)` (R130). -/
def stage (cfg : Config) (dc : BitVec 8) (len : Nat) (cs : Vector Byte 6) : List Event :=
  txnEvents (busAddr cfg dc) (REG_DATA :: stagedBytes cfg (digitCount dc) len cs)

/-- `Commit(DC)`, the commit pulse (R131). -/
def commit (cfg : Config) (dc : BitVec 8) : List Event :=
  txnEvents (busAddr cfg dc) [REG_COMMIT, cfg.commitPayload]

/-- `ResetTxn(DC)` (R132). -/
def resetTxn (cfg : Config) (dc : BitVec 8) : List Event :=
  txnEvents (busAddr cfg dc) [REG_RESET, cfg.resetPayload]

/-- `SetCur(a, level)`, the internal SETCUR capability (R133, R135). -/
def setCur (a : BusAddr) (level : Byte) : List Event := txnEvents a [REG_LIGHT, level]

/-- `SetPwm(DC, p)` (R134). -/
def setPwm (cfg : Config) (dc : BitVec 8) (p : Int) : List Event :=
  txnEvents (busAddr cfg dc) [REG_PWM, duty p]

/-- INIT: the current limit of both chips, FourDigit first (R140, D14). -/
def eventsInit (cfg : Config) : List Event := setCur cfg.addr4 CUR_MAX ++ setCur cfg.addr6 CUR_MAX

/-- WTEXT (R145). -/
def eventsWtext (cfg : Config) (dc : BitVec 8) (len : BitVec 4) (cs : Vector Byte 6) : List Event :=
  stage cfg dc len.toNat cs ++ commit cfg dc

/-- WRAND with the latched random value (R150). -/
def eventsWrand (cfg : Config) (dc : BitVec 8) (r : RandomWord) : List Event :=
  stage cfg dc 6 (decimal r) ++ commit cfg dc

/-- RSTDISP (R153). -/
def eventsRstdisp (cfg : Config) (dc : BitVec 8) : List Event :=
  resetTxn cfg dc ++ setCur (busAddr cfg dc) CUR_MAX

/-- SETBRT, PCT read as two's complement (R76, R155). -/
def eventsSetbrt (cfg : Config) (dc : BitVec 8) (pct : BitVec 16) : List Event := setPwm cfg dc pct.toInt

/-- `Events(w, r)` over the decoded word (R125). An illegal word has no event list and a lookup is no
command: neither is ever latched, and the list given is empty. -/
def events (cfg : Config) (i : Instr) (r : RandomWord) : List Event :=
  match i with
  | .init _ => eventsInit cfg
  | .wtext dc len c0 c1 c2 c3 c4 c5 => eventsWtext cfg dc len (slots c0 c1 c2 c3 c4 c5)
  | .wrand dc _ => eventsWrand cfg dc r
  | .rstdisp dc _ => eventsRstdisp cfg dc
  | .setbrt dc _ pct _ => eventsSetbrt cfg dc pct
  | .illegal0 _ | .illegal6 _ | .illegal7 _ | .illegal8 _ | .illegal9 _ | .illegalA _ => []
  | .illegalB _ | .illegalC _ | .illegalD _ | .illegalE _ | .illegalF _ => []
  | .glyph0 | .glyph1 | .glyph2 | .glyph3 | .glyph4 => []
  | .glyph5 | .glyph6 | .glyph7 | .glyph8 | .glyph9 | .glyphBlank _ => []

/-- `EV = Events(S.cmd, S.rnd)`, the latched command's event list (R24). -/
def State.eventList (s : State) : List Event := events s.cfg (decodeCmd s.seq.cmd) s.seq.rnd

/-- `EV[S.upc]`, the event presented on the bus side (R24). -/
def State.presented (s : State) : Option Event := s.eventList[s.seq.upc.toNat]?

end Sys2Proof.Machine
end

