-- ==== Sys2Proof/Machine/Flags.lean ====
section
/-! DEFINITION. The output ports as functions of the state and the input ports (spec/10_state.md R21, R22,
R28, R30; spec/70_reset_and_hazards.md R200), and what the displays show (spec/60_exceptions.md R193). -/
namespace Sys2Proof.Machine

/-- `cmd_ready`: 1 exactly when `S.active = 0` and `rst = 0` (R21). -/
def State.cmdReady (s : State) : Bool := !s.seq.active && !s.inputs.rst

/-- `bus_en`: `S.init_done` (R22), 0 while `rst = 1` (R200). -/
def State.busEn (s : State) : Bool := s.seq.initDone && !s.inputs.rst

/-- `ev_valid`: 1 exactly when `S.active = 1` and `rst = 0` (R22). -/
def State.evValid (s : State) : Bool := s.seq.active && !s.inputs.rst

/-- The code of an event on `ev_kind` (R22); 11 is never driven. -/
def Event.kind : Event → BitVec 2
  | .start _ => 0b00
  | .byte _ => 0b01
  | .stop => 0b10

/-- The datum of an event on `ev_data` (R22). -/
def Event.data : Event → Byte
  | .start a => a.setWidth 8
  | .byte b => b
  | .stop => 0x00

/-- The event on the bus side while `ev_valid = 1` (R24). -/
def State.drivenEvent (s : State) : Option Event := if s.evValid then s.presented else none

/-- `ev_kind`: 00 while `ev_valid = 0` (R22). -/
def State.evKind (s : State) : BitVec 2 :=
  match s.drivenEvent with
  | some e => e.kind
  | none => 0b00

/-- `ev_data`: 0x00 while `ev_valid = 0` (R22). -/
def State.evData (s : State) : Byte :=
  match s.drivenEvent with
  | some e => e.data
  | none => 0x00

/-- `enc_seg = ROM(enc_char)`, combinational, in reset or not (R100, R166, R200). -/
def State.encSeg (s : State) : Byte := rom s.cfg s.inputs.encChar

/-- `TXN_OPEN = S.active and S.upc > 0 and EV[S.upc - 1] != STOP` (R28). -/
def State.txnOpen (s : State) : Bool :=
  s.seq.active && decide (0 < s.seq.upc.toNat) && s.eventList[s.seq.upc.toNat - 1]? != some .stop

/-- A Bool as one bit. -/
def bit (b : Bool) : BitVec 1 := BitVec.ofBool b

/-- The eight bits of STATUS, bit 7 first (R30). -/
def State.statusBits (s : State) : Byte :=
  (0b00 : BitVec 2) ++ bit s.txnOpen ++ bit s.seq.errRng ++ bit s.seq.errNoinit ++ bit s.seq.errIllegal ++
    bit s.seq.initDone ++ bit s.seq.active

/-- The port `status`: STATUS (R30), 0x00 while `rst = 1` (R200). -/
def State.status (s : State) : Byte := if s.inputs.rst then 0x00 else s.statusBits

/-! ### The displays (R193) -/

/-- The chip of a target (R185). -/
def State.chip (s : State) : DisplayTarget → Chip
  | .fourDigit => s.chip4
  | .sixDigit => s.chip6

/-- The physical position that text position `i` lights (R193). -/
def digitMap (cfg : Config) : DisplayTarget → List Nat
  | .fourDigit => cfg.digitMap4.toList.map Fin.val
  | .sixDigit => cfg.digitMap6.toList.map Fin.val

/-- A current-limit code in mA per segment: the two codes the source names (R190), and the code a chip has by
default (R185); the source gives no other meaning. -/
def milliamps (d : ChipDefaults) (light : Byte) : Option Nat :=
  if light = CUR_MAX then some 20
  else if light = CUR_MIN then some 10
  else if light = d.light then some d.milliamps
  else none

/-- The current of a module's chip in mA per segment, where the source gives one (R190, R193). -/
def State.current (s : State) (t : DisplayTarget) : Option Nat := milliamps (s.cfg.defaults t) (s.chip t).light

/-- The chip's default current limit is above 20 mA: "the chip's own higher default current limit" (R185, D28). -/
def aboveLimit (d : ChipDefaults) : Bool := (milliamps d d.light).any (20 < ·)

/-- What a module shows: for each of its positions the segments lit, at a brightness and a current (R193). -/
structure Shown where
  /-- (physical position, lit segments in gfedcba order), text position 0 first. -/
  lit : List (Nat × BitVec 7)
  pwm : Byte
  light : Byte
deriving DecidableEq, Repr

/-- The observation of R193. -/
def State.shown (s : State) (t : DisplayTarget) : Shown where
  lit := (digitMap s.cfg t).zip (((s.chip t).live.toList.take (positions t)).map fun b => b.extractLsb' 0 7)
  pwm := (s.chip t).pwm
  light := (s.chip t).light

end Sys2Proof.Machine
end

