-- ==== Sys2Proof/Machine/Ops.lean ====
section
/-! DEFINITION. The shared operations: updates of one field, acceptance and rejection
(spec/41_sequencer_commands.md R160, spec/60_exceptions.md R170 to R174), the driver chips (R186 to R192),
the bus master (R181, R182), emission (R162), block reset (spec/70_reset_and_hazards.md R200) and the
environment's move before a step. -/
namespace Sys2Proof.Machine

/-! ### Updates of one field -/

def State.withSeq (s : State) (q : Sequencer) : State := { s with seq := q }
def State.withInputs (s : State) (i : Inputs) : State := { s with inputs := i }
def State.withSchedule (s : State) (l : List Inputs) : State := { s with schedule := l }
def State.withTxn (s : State) (t : Option OpenTxn) : State := { s with txn := t }
def State.withChip4 (s : State) (c : Chip) : State := { s with chip4 := c }
def State.withChip6 (s : State) (c : Chip) : State := { s with chip6 := c }

/-! ### Rejection: the block's only exception (R170) -/

/-- The three rejection kinds (R171 to R173). -/
inductive Rejection where
  | illegal
  | noinit
  | rng
deriving DecidableEq, Repr

/-- The cause code: the STATUS bit a rejection sets (R175). -/
def Rejection.code : Rejection → Nat
  | .illegal => 2
  | .noinit => 3
  | .rng => 4

/-- The sticky bit of a rejection set, nothing else changed (R170). -/
def Sequencer.flag (q : Sequencer) : Rejection → Sequencer
  | .illegal => { q with errIllegal := true }
  | .noinit => { q with errNoinit := true }
  | .rng => { q with errRng := true }

/-- `raise Reject(kind)`: the command is consumed and one sticky bit is set; no state is saved, no vector
is taken and there is no return (R170, R178). -/
def reject (k : Rejection) (s : State) : Result := .next (s.withSeq (s.seq.flag k))

/-! ### Acceptance (R160) -/

/-- `S.cmd <- w; S.rnd <- r; S.upc <- 0; S.active <- 1` (R160). -/
def Sequencer.latch (q : Sequencer) (w : CmdWord) (r : RandomWord) : Sequencer :=
  { q with cmd := w, rnd := r, upc := 0, active := true }

/-- A command is accepted: its word and random value are latched. -/
def accept (w : CmdWord) (r : RandomWord) (s : State) : Result := .next (s.withSeq (s.seq.latch w r))

/-- INIT is accepted: it also opens the bus, `S.init_done <- 1` (R140, R160). -/
def acceptInit (w : CmdWord) (s : State) : Result :=
  .next (s.withSeq { s.seq.latch w 0 with initDone := true })

/-- A command is presented: taken when `cmd_ready = 1`, left alone otherwise (R21, R163). -/
def offer (s : State) (taken : Result) : Result := if s.cmdReady then taken else .next s

/-- The check of every command but INIT (R172). -/
def ifInitDone (s : State) (go : Result) : Result := if s.seq.initDone then go else reject .noinit s

/-- The further check of WRAND (R173). -/
def ifRngInRange (s : State) (go : Result) : Result :=
  if rngInRange s.inputs.rngValue then go else reject .rng s

/-! ### The glyph LUT port (R100) -/

/-- A lookup: the host drives `enc_char`; `enc_seg` follows (State.encSeg), and nothing else moves. -/
def lookup (c : Byte) (s : State) : Result := .next (s.withInputs { s.inputs with encChar := c })

/-! ### The driver chips (R186 to R192) -/

/-- A byte written to register `r`, the pointer left alone (R187 to R191); none for a register that is not
modelled (R185). -/
def Chip.writeReg (d : ChipDefaults) (r b : Byte) (c : Chip) : Option Chip :=
  if 0x01 ≤ r ∧ r ≤ 0x06 then some { c with stg := c.stg.setIfInBounds (r.toNat - 1) b }
  else if r = REG_COMMIT then some { c with live := c.stg }
  else if r = REG_LIGHT then some { c with light := b }
  else if r = REG_PWM then some { c with pwm := b }
  else if r = REG_RESET then some { c with stg := d.stg, live := d.live, pwm := d.pwm, light := d.light }
  else none

/-- A data byte: written at `PTR`, which then increments (R186). -/
def Chip.writeData (d : ChipDefaults) (b : Byte) (c : Chip) : Option Chip :=
  (c.writeReg d c.ptr b).map fun c' => { c' with ptr := c.ptr + 1 }

/-- A byte of a transaction addressed to the chip: the first sets `PTR`, each later one is data (R186). -/
def Chip.receive (d : ChipDefaults) (ptrSet : Bool) (b : Byte) (c : Chip) : Option Chip :=
  if ptrSet then c.writeData d b else some { c with ptr := b }

/-- The bytes of one transaction, or of a prefix of one, received in order (R192). -/
def Chip.receiveData (d : ChipDefaults) : List Byte → Chip → Option Chip
  | [], c => some c
  | b :: bs, c => (c.writeData d b).bind (Chip.receiveData d bs)

/-- A transaction's bytes, or a prefix of them, received in order (R186, R192). -/
def Chip.receiveAll (d : ChipDefaults) : List Byte → Chip → Option Chip
  | [], c => some c
  | r :: bs, c => Chip.receiveData d bs { c with ptr := r }

/-- A chip on the bus: it acts only on a transaction that carries its own address (R186). -/
def Chip.hear (listens : Bool) (d : ChipDefaults) (ptrSet : Bool) (b : Byte) (c : Chip) : Option Chip :=
  if listens then c.receive d ptrSet b else some c

/-! ### The bus master (R181, R182) -/

/-- The bus master's own choice for this event: an event it drops cuts the transaction's tail off (R181). -/
def OpenTxn.cutUnless (t : OpenTxn) (delivered : Bool) : OpenTxn := { t with cut := t.cut || !delivered }

/-- The chip at `a` receives the transaction's bytes. -/
def OpenTxn.reaches (t : OpenTxn) (a : BusAddr) : Bool := t.addr == a && !t.cut

/-- A byte carried to the chips; `t` is the open transaction after the bus master's choice. -/
def carryByte (b : Byte) (t : OpenTxn) (s : State) : Result :=
  match s.chip4.hear (t.reaches s.cfg.addr4) s.cfg.defaults4 t.ptrSet b,
        s.chip6.hear (t.reaches s.cfg.addr6) s.cfg.defaults6 t.ptrSet b with
  | some c4, some c6 => .next (((s.withTxn (some { t with ptrSet := true })).withChip4 c4).withChip6 c6)
  | _, _ => .fault .unmodelledChipRegister

/-- The bus master accepts an event and carries it (R181, R186). -/
def carry (e : Event) (s : State) : Result :=
  match e with
  | .start a => .next (s.withTxn (some { addr := a, ptrSet := false, cut := !s.inputs.deliver }))
  | .byte b =>
    match s.txn with
    | some t => carryByte b (t.cutUnless s.inputs.deliver) s
    | none => .fault .byteOutsideTransaction
  | .stop => .next (s.withTxn none)

/-! ### Emission (R162) -/

/-- The move of `S.upc` past an event, in a list of `n` (R162). -/
def Sequencer.advance (q : Sequencer) (n : Nat) : Sequencer :=
  if q.upc.toNat + 1 = n then { q with active := false, upc := 0 } else { q with upc := q.upc + 1 }

/-- The sequencer past its presented event. -/
def State.advance (s : State) : State := s.withSeq (s.seq.advance s.eventList.length)

/-- An emission step: the presented event is handed over and carried, and `S.upc` moves (R162). -/
def emit (s : State) : Result :=
  match s.presented with
  | none => .fault .noEventAtUpc
  | some e =>
    match carry e s with
    | .next t => .next t.advance
    | .fault f => .fault f
    | .refused r => .refused r

/-! ### Block reset (R200, R202, R204) -/

/-- A reset step: `S` takes its reset values, the bus master ends an open transaction, and the chips keep
what they received. -/
def State.blockReset (s : State) : State := (s.withSeq Sequencer.reset).withTxn none

/-! ### The environment's move -/

/-- The ports when the schedule has run out: nothing is presented, nothing is reset or power-cycled, and
the other ports keep their level (log entry 6). -/
def Inputs.quiet (i : Inputs) : Inputs :=
  { i with rst := false, cmdValid := false, cycle4 := false, cycle6 := false }

/-- The next step's port values. -/
def State.nextInputs (s : State) : State :=
  match s.schedule with
  | i :: rest => (s.withInputs i).withSchedule rest
  | [] => s.withInputs s.inputs.quiet

/-- The open transaction when the chip at `a` loses its power: its tail reaches no one (log entry 16). -/
def cutAt (a : BusAddr) (t : OpenTxn) : OpenTxn := if t.addr = a then { t with cut := true } else t

/-- A power cycle of the chip at `ADDR_4`, if the environment has one in this step (R196). -/
def State.powerCycle4 (s : State) : State :=
  if s.inputs.cycle4 then
    (s.withChip4 (Chip.powerOn s.cfg.defaults4)).withTxn (s.txn.map (cutAt s.cfg.addr4))
  else s

/-- A power cycle of the chip at `ADDR_6`, if the environment has one in this step (R196). -/
def State.powerCycle6 (s : State) : State :=
  if s.inputs.cycle6 then
    (s.withChip6 (Chip.powerOn s.cfg.defaults6)).withTxn (s.txn.map (cutAt s.cfg.addr6))
  else s

/-- The environment moves: the ports take their next values, and chips are power-cycled. -/
def State.sample (s : State) : State := s.nextInputs.powerCycle4.powerCycle6

/-! ### Presenting an instruction -/

/-- The block made ready for a command: one in progress is abandoned and its transaction ended. -/
def State.idled (s : State) : State :=
  if s.seq.active then (s.withSeq { s.seq with active := false, upc := 0 }).withTxn none else s

/-- The next step presents the command word `w`. -/
def State.presentWord (s : State) (w : CmdWord) : State :=
  s.idled.withSchedule ({ s.inputs.quiet with cmdValid := true, cmdWord := w } :: s.schedule)

/-- The next step drives the code `c` on the LUT port, and the sequencer waits. -/
def State.presentCode (s : State) (c : Byte) : State :=
  s.withSchedule
    ({ s.inputs.quiet with encChar := c, evReady := s.inputs.evReady && !s.seq.active } :: s.schedule)

/-- The next step presents the instruction that stands in `bs`. -/
def State.presentBytes (s : State) (bs : List Byte) : State :=
  match bs with
  | [c] => s.presentCode c
  | [b0, b1, b2, b3, b4, b5, b6, b7] => s.presentWord (b7 ++ b6 ++ b5 ++ b4 ++ b3 ++ b2 ++ b1 ++ b0)
  | _ => s

end Sys2Proof.Machine
end

