-- ==== Sys2Proof/Machine/Brightness.lean ====
section
/-! DEFINITION. SETBRT (spec/41_sequencer_commands.md R155). -/
namespace Sys2Proof.Machine

/-- SETBRT: an out-of-range percent is never rejected (R155, R176). -/
def execSetbrt (dc : BitVec 8) (ignLo : BitVec 4) (pct : BitVec 16) (ignHi : BitVec 32) (s : State) : Result :=
  offer s (ifInitDone s (accept (wordB 0x5 dc ignLo pct ignHi) 0 s))

end Sys2Proof.Machine
end

