-- ==== Sys2Proof/Machine/Glyph.lean ====
section
/-! DEFINITION. The glyph lookups (spec/40_glyph_encoder.md R100 to R103): each drives its code on
`enc_char`, and `enc_seg` shows the ROM's entry (State.encSeg). -/
namespace Sys2Proof.Machine

/-- Code 0x30, the character '0' (R102). -/
def execGlyph0 (s : State) : Result := lookup 0x30 s

/-- Code 0x31, the character '1' (R102). -/
def execGlyph1 (s : State) : Result := lookup 0x31 s

/-- Code 0x32, the character '2' (R102). -/
def execGlyph2 (s : State) : Result := lookup 0x32 s

/-- Code 0x33, the character '3' (R102). -/
def execGlyph3 (s : State) : Result := lookup 0x33 s

/-- Code 0x34, the character '4' (R102). -/
def execGlyph4 (s : State) : Result := lookup 0x34 s

/-- Code 0x35, the character '5' (R102). -/
def execGlyph5 (s : State) : Result := lookup 0x35 s

/-- Code 0x36, the character '6' (R102). -/
def execGlyph6 (s : State) : Result := lookup 0x36 s

/-- Code 0x37, the character '7' (R102). -/
def execGlyph7 (s : State) : Result := lookup 0x37 s

/-- Code 0x38, the character '8' (R102). -/
def execGlyph8 (s : State) : Result := lookup 0x38 s

/-- Code 0x39, the character '9' (R102). -/
def execGlyph9 (s : State) : Result := lookup 0x39 s

/-- Every other code: the blank glyph (R103). -/
def execGlyphBlank (code : Byte) (s : State) : Result := lookup code s

end Sys2Proof.Machine
end

