-- ==== Sys2Proof/Machine/Illegal.lean ====
section
/-! DEFINITION. The illegal opcodes (spec/60_exceptions.md R171): each is rejected with ERR_ILLEGAL, and
nothing of the word is kept. -/
namespace Sys2Proof.Machine

/-- OP 0x0 (R171). -/
def execIllegal0 (_rest : BitVec 60) (s : State) : Result := offer s (reject .illegal s)

/-- OP 0x6 (R171). -/
def execIllegal6 (_rest : BitVec 60) (s : State) : Result := offer s (reject .illegal s)

/-- OP 0x7 (R171). -/
def execIllegal7 (_rest : BitVec 60) (s : State) : Result := offer s (reject .illegal s)

/-- OP 0x8 (R171). -/
def execIllegal8 (_rest : BitVec 60) (s : State) : Result := offer s (reject .illegal s)

/-- OP 0x9 (R171). -/
def execIllegal9 (_rest : BitVec 60) (s : State) : Result := offer s (reject .illegal s)

/-- OP 0xA (R171). -/
def execIllegalA (_rest : BitVec 60) (s : State) : Result := offer s (reject .illegal s)

/-- OP 0xB (R171). -/
def execIllegalB (_rest : BitVec 60) (s : State) : Result := offer s (reject .illegal s)

/-- OP 0xC (R171). -/
def execIllegalC (_rest : BitVec 60) (s : State) : Result := offer s (reject .illegal s)

/-- OP 0xD (R171). -/
def execIllegalD (_rest : BitVec 60) (s : State) : Result := offer s (reject .illegal s)

/-- OP 0xE (R171). -/
def execIllegalE (_rest : BitVec 60) (s : State) : Result := offer s (reject .illegal s)

/-- OP 0xF (R171). -/
def execIllegalF (_rest : BitVec 60) (s : State) : Result := offer s (reject .illegal s)

end Sys2Proof.Machine
end

