-- ==== Sys2Proof/Machine/System.lean ====
section
/-! DEFINITION. INIT and RSTDISP, the commands that set the chips up (spec/41_sequencer_commands.md R140,
R153). A command's meaning is its acceptance step (R160); the events it then emits are in Events.lean. -/
namespace Sys2Proof.Machine

/-- INIT: never rejected (R140, R172). -/
def execInit (ign : BitVec 60) (s : State) : Result := offer s (acceptInit (wordOp 0x1 ign) s)

/-- RSTDISP (R153). -/
def execRstdisp (dc : BitVec 8) (ign : BitVec 52) (s : State) : Result :=
  offer s (ifInitDone s (accept (wordD 0x4 dc ign) 0 s))

end Sys2Proof.Machine
end

