-- ==== Sys2Proof/Machine/Text.lean ====
section
/-! DEFINITION. WTEXT and WRAND, the commands that show text (spec/41_sequencer_commands.md R145, R150). -/
namespace Sys2Proof.Machine

/-- WTEXT (R145). -/
def execWtext (dc : BitVec 8) (len : BitVec 4) (c0 c1 c2 c3 c4 c5 : Byte) (s : State) : Result :=
  offer s (ifInitDone s (accept (wordT 0x2 dc len c0 c1 c2 c3 c4 c5) 0 s))

/-- WRAND: `rng_value` is sampled here and nowhere else (R150). -/
def execWrand (dc : BitVec 8) (ign : BitVec 52) (s : State) : Result :=
  offer s (ifInitDone s (ifRngInRange s (accept (wordD 0x3 dc ign) s.inputs.rngValue s)))

end Sys2Proof.Machine
end

