-- ==== Sys2Proof/Machine/Dispatch.lean ====
section
/-! DEFINITION. The dispatch of an instruction to its meaning: one arm per constructor. -/
namespace Sys2Proof.Machine

def exec (i : Instr) (s : State) : Host.Outcome State Fault Refusal :=
  match i with
  | .init ign => Sys2Proof.Machine.execInit ign s
  | .wtext dc len c0 c1 c2 c3 c4 c5 => Sys2Proof.Machine.execWtext dc len c0 c1 c2 c3 c4 c5 s
  | .wrand dc ign => Sys2Proof.Machine.execWrand dc ign s
  | .rstdisp dc ign => Sys2Proof.Machine.execRstdisp dc ign s
  | .setbrt dc ignLo pct ignHi => Sys2Proof.Machine.execSetbrt dc ignLo pct ignHi s
  | .illegal0 rest => Sys2Proof.Machine.execIllegal0 rest s
  | .illegal6 rest => Sys2Proof.Machine.execIllegal6 rest s
  | .illegal7 rest => Sys2Proof.Machine.execIllegal7 rest s
  | .illegal8 rest => Sys2Proof.Machine.execIllegal8 rest s
  | .illegal9 rest => Sys2Proof.Machine.execIllegal9 rest s
  | .illegalA rest => Sys2Proof.Machine.execIllegalA rest s
  | .illegalB rest => Sys2Proof.Machine.execIllegalB rest s
  | .illegalC rest => Sys2Proof.Machine.execIllegalC rest s
  | .illegalD rest => Sys2Proof.Machine.execIllegalD rest s
  | .illegalE rest => Sys2Proof.Machine.execIllegalE rest s
  | .illegalF rest => Sys2Proof.Machine.execIllegalF rest s
  | .glyph0 => Sys2Proof.Machine.execGlyph0 s
  | .glyph1 => Sys2Proof.Machine.execGlyph1 s
  | .glyph2 => Sys2Proof.Machine.execGlyph2 s
  | .glyph3 => Sys2Proof.Machine.execGlyph3 s
  | .glyph4 => Sys2Proof.Machine.execGlyph4 s
  | .glyph5 => Sys2Proof.Machine.execGlyph5 s
  | .glyph6 => Sys2Proof.Machine.execGlyph6 s
  | .glyph7 => Sys2Proof.Machine.execGlyph7 s
  | .glyph8 => Sys2Proof.Machine.execGlyph8 s
  | .glyph9 => Sys2Proof.Machine.execGlyph9 s
  | .glyphBlank code => Sys2Proof.Machine.execGlyphBlank code s

end Sys2Proof.Machine
end

