-- ==== Sys2Proof/Machine/Cycle.lean ====
section
/-! DEFINITION. What the block does in one step once the ports have their values: a lookup on the LUT port,
which is always there (spec/41_sequencer_commands.md R166), and at most one of a reset step (R200), an
emission step (R162) and an acceptance step (R160), or a wait (R163). -/
namespace Sys2Proof.Machine

/-- The LUT port runs the lookup that stands on `enc_char`. -/
def lookupPhase (s : State) : Result := exec (decodeLut s.inputs.encChar) s

/-- The sequencer's step: reset first (R200), then emission while a command is active (R162), else
acceptance (R160); a wait leaves the state alone (R163, log entry 8). -/
def sequencerPhase (s : State) : Result :=
  if s.inputs.rst then .next s.blockReset
  else if s.seq.active then
    if s.inputs.evReady then emit s else .next s
  else if s.inputs.cmdValid then exec (decodeCmd s.inputs.cmdWord) s
  else .next s

/-- One step at given port values. -/
def cycle (s : State) : Result :=
  match lookupPhase s with
  | .next t => sequencerPhase t
  | .fault f => .fault f
  | .refused r => .refused r

end Sys2Proof.Machine
end

