-- ==== Sys2Proof/Machine/Step.lean ====
section
/-! DEFINITION. One step of the machine: the environment moves (State.sample), then the block does
(cycle). -/
namespace Sys2Proof.Machine

def step (s : State) : Host.Outcome State Fault Refusal := cycle s.sample

/-- `s` with an opcode-table row's word presented in the next step, on the port it belongs to. -/
def State.withFetchWord (s : State) (nbits w : Nat) : State := s.presentBytes (tableBytes nbits w)

end Sys2Proof.Machine
end

