-- ==== Sys2Proof/Machine/Assembler.lean ====
section
/-! DEFINITION. The assembler's syntax (spec/30_encoding.md R82 to R84, decision D26): the lines of a listing,
the word each encodes, the line each word is printed as, and how a line is spelled. It has no effect on the
machine. -/
namespace Sys2Proof.Machine

/-- One line of a listing (R82, R83). -/
inductive AsmLine where
  | init
  | wtext (dc : Nat) (text : List Byte)
  | wrand (dc : Nat)
  | rstdisp (dc : Nat)
  | setbrt (dc : Nat) (pct : Int)
  /-- The pseudo-instruction BLANK (R83). -/
  | blank (dc : Nat)
  /-- `.dword v`: any word, illegal ones too. -/
  | dword (w : CmdWord)
deriving DecidableEq, Repr

/-- A digit count as DC, refused outside 0..255 (R82). -/
def dcOperand (dc : Nat) : Option (BitVec 8) := if dc ≤ 255 then some (BitVec.ofNat 8 dc) else none

/-- The code at position `i` of a text; the slots a text leaves unused are 0 (R82). -/
def textSlot (text : List Byte) (i : Nat) : Byte := (text[i]?).getD 0

/-- `WTEXT dc, text`, refused for more than six characters (R82). -/
def assembleText (dc : Nat) (text : List Byte) : Option CmdWord :=
  if text.length ≤ 6 then
    (dcOperand dc).map fun d => wordT 0x2 d (BitVec.ofNat 4 text.length) (textSlot text 0) (textSlot text 1)
      (textSlot text 2) (textSlot text 3) (textSlot text 4) (textSlot text 5)
  else none

/-- The word a line encodes; none where the assembler refuses the line (R82, R83). -/
def assemble : AsmLine → Option CmdWord
  | .init => some (wordOp 0x1 0)
  | .wtext dc text => assembleText dc text
  | .wrand dc => (dcOperand dc).map fun d => wordD 0x3 d 0
  | .rstdisp dc => (dcOperand dc).map fun d => wordD 0x4 d 0
  | .setbrt dc pct =>
    if -32768 ≤ pct ∧ pct ≤ 32767 then (dcOperand dc).map fun d => wordB 0x5 d 0 (BitVec.ofInt 16 pct) 0 else none
  | .blank dc => assembleText dc []
  | .dword w => some w

/-- The line a word is printed as: its mnemonic where the word has no ignored bit set and its text length is
at most six, `.dword` otherwise (R84). -/
def disassemble (w : CmdWord) : AsmLine :=
  match decodeCmd w with
  | .init ign => if ign = 0 then .init else .dword w
  | .wtext dc len c0 c1 c2 c3 c4 c5 =>
    if len.toNat ≤ 6 ∧ (Instr.wtext dc len c0 c1 c2 c3 c4 c5).clearIgnored = .wtext dc len c0 c1 c2 c3 c4 c5 then
      .wtext dc.toNat ([c0, c1, c2, c3, c4, c5].take len.toNat)
    else .dword w
  | .wrand dc ign => if ign = 0 then .wrand dc.toNat else .dword w
  | .rstdisp dc ign => if ign = 0 then .rstdisp dc.toNat else .dword w
  | .setbrt dc lo pct hi => if lo = 0 ∧ hi = 0 then .setbrt dc.toNat pct.toInt else .dword w
  | _ => .dword w

/-! ### Spelling a line (R82, R84) -/

/-- A hexadecimal digit, upper case. -/
def hexChar (d : Nat) : Char := Char.ofNat (if d < 10 then 0x30 + d else 0x37 + d)

/-- The `n` lowest hexadecimal digits of a number, the highest of them first. -/
def hexDigits : Nat → Nat → List Char
  | 0, _ => []
  | n + 1, v => hexDigits n (v / 16) ++ [hexChar (v % 16)]

/-- The `n` lowest decimal digits of a number without its leading zeros, but at least one digit. -/
def decDigits : Nat → Nat → List Char
  | 0, _ => []
  | n + 1, v => (if v < 10 then [] else decDigits n (v / 10)) ++ [Char.ofNat (0x30 + v % 10)]

/-- A character of a text: itself where it is printable ASCII other than the quote and the backslash, which
would end the text or begin an escape, and `\xHH` otherwise (log entry 22). -/
def spellChar (c : Byte) : List Char :=
  if 0x20 ≤ c ∧ c ≤ 0x7E ∧ c ≠ 0x22 ∧ c ≠ 0x5C then [Char.ofNat c.toNat] else ['\\', 'x'] ++ hexDigits 2 c.toNat

/-- A line as it is printed. -/
def AsmLine.spell : AsmLine → List Char
  | .init => ['I', 'N', 'I', 'T']
  | .wtext dc text => ['W', 'T', 'E', 'X', 'T', ' '] ++ decDigits 3 dc ++ [',', ' ', '"'] ++ text.flatMap spellChar ++ ['"']
  | .wrand dc => ['W', 'R', 'A', 'N', 'D', ' '] ++ decDigits 3 dc
  | .rstdisp dc => ['R', 'S', 'T', 'D', 'I', 'S', 'P', ' '] ++ decDigits 3 dc
  | .setbrt dc pct => ['S', 'E', 'T', 'B', 'R', 'T', ' '] ++ decDigits 3 dc ++ [',', ' '] ++
      (if pct < 0 then ['-'] else []) ++ decDigits 5 pct.natAbs
  | .blank dc => ['B', 'L', 'A', 'N', 'K', ' '] ++ decDigits 3 dc
  | .dword w => ['.', 'd', 'w', 'o', 'r', 'd', ' ', '0', 'x'] ++ hexDigits 16 w.toNat

/-! ### Reading a line (R82) -/

/-- The rest after blanks. DESIGN CHOICE (log entry 22): R82 does not say which blanks a line may hold. The space
alone is a blank and a tab is refused; blanks may stand at both ends of the line, around the comma, and in any
number after the mnemonic, where an operand needs at least one before it. -/
def skipBlanks : List Char → List Char
  | ' ' :: cs => skipBlanks cs
  | cs => cs

/-- A letter in upper case: mnemonics are case-insensitive. -/
def upper (c : Char) : Char := if 0x61 ≤ c.toNat ∧ c.toNat ≤ 0x7A then Char.ofNat (c.toNat - 0x20) else c

/-- The value of a digit in base 10 or 16. -/
def digitValue (base : Nat) (c : Char) : Option Nat :=
  let n := (upper c).toNat
  if 0x30 ≤ n ∧ n ≤ 0x39 then some (n - 0x30)
  else if base = 16 ∧ 0x41 ≤ n ∧ n ≤ 0x46 then some (n - 0x37)
  else none

/-- Digits onto a value read so far; the rest begins at the first character that is no digit. -/
def readDigits (base : Nat) : Nat → List Char → Nat × List Char
  | v, [] => (v, [])
  | v, c :: cs =>
    match digitValue base c with
    | some d => readDigits base (base * v + d) cs
    | none => (v, c :: cs)

/-- A number, decimal or `0x` hex (R82). DESIGN CHOICE (log entry 22): where R82 is silent, the `x` is lower case,
hex digits are read in either case, and leading zeros are allowed. -/
def readNat (cs : List Char) : Option (Nat × List Char) :=
  match cs with
  | '0' :: 'x' :: c :: rest => (digitValue 16 c).map fun d => readDigits 16 d rest
  | c :: rest => (digitValue 10 c).map fun d => readDigits 10 d rest
  | [] => none

/-- A number that may be negative, decimal or hex (R82). DESIGN CHOICE (log entry 22): no blank stands between the
sign and the digits, and there is no plus sign. -/
def readInt (cs : List Char) : Option (Int × List Char) :=
  match cs with
  | '-' :: rest => (readNat rest).map fun (v, r) => (-(v : Int), r)
  | _ => (readNat cs).map fun (v, r) => ((v : Int), r)

/-- The characters of a text up to its closing quote: a printable character stands for its code, `\xHH` for the
code 0xHH (R82). DESIGN CHOICE (log entry 22): R82 does not say whether a backslash that begins no `\xHH` stands
for its code, nor how a quote inside a text is written; the line with such a backslash is refused, and the first
quote ends the text. -/
def readText : List Char → Option (List Byte × List Char)
  | '"' :: rest => some ([], rest)
  | '\\' :: 'x' :: h :: l :: rest =>
    match digitValue 16 h, digitValue 16 l, readText rest with
    | some a, some b, some (t, r) => some (BitVec.ofNat 8 (16 * a + b) :: t, r)
    | _, _, _ => none
  | c :: rest =>
    if 0x20 ≤ c.toNat ∧ c.toNat ≤ 0x7E ∧ c ≠ '\\' then
      (readText rest).map fun (t, r) => (BitVec.ofNat 8 c.toNat :: t, r)
    else none
  | [] => none

/-- The rest after a comma between operands. -/
def afterComma (cs : List Char) : Option (List Char) :=
  match skipBlanks cs with
  | ',' :: rest => some (skipBlanks rest)
  | _ => none

/-- A line, if nothing but blanks is left after it. -/
def atEnd (l : AsmLine) (rest : List Char) : Option AsmLine := if skipBlanks rest = [] then some l else none

/-- The operands of a mnemonic. -/
def readOperands (mnemonic operands : List Char) : Option AsmLine :=
  match mnemonic with
  | ['I', 'N', 'I', 'T'] => atEnd .init operands
  | ['W', 'T', 'E', 'X', 'T'] => do
    let (dc, r) ← readNat operands
    match ← afterComma r with
    | '"' :: r => do
      let (t, r) ← readText r
      atEnd (.wtext dc t) r
    | _ => none
  | ['W', 'R', 'A', 'N', 'D'] => do
    let (dc, r) ← readNat operands
    atEnd (.wrand dc) r
  | ['R', 'S', 'T', 'D', 'I', 'S', 'P'] => do
    let (dc, r) ← readNat operands
    atEnd (.rstdisp dc) r
  | ['S', 'E', 'T', 'B', 'R', 'T'] => do
    let (dc, r) ← readNat operands
    let (pct, r) ← readInt (← afterComma r)
    atEnd (.setbrt dc pct) r
  | ['B', 'L', 'A', 'N', 'K'] => do
    let (dc, r) ← readNat operands
    atEnd (.blank dc) r
  | ['.', 'D', 'W', 'O', 'R', 'D'] => do
    let (v, r) ← readNat operands
    if v < 2 ^ 64 then atEnd (.dword (BitVec.ofNat 64 v)) r else none
  | _ => none

/-- A line of a listing as it is read. -/
def readLine (cs : List Char) : Option AsmLine :=
  let line := skipBlanks cs
  readOperands ((line.takeWhile (· ≠ ' ')).map upper) (skipBlanks (line.dropWhile (· ≠ ' ')))

/-- The word a written line encodes; none where the assembler refuses it. -/
def assembleLine (cs : List Char) : Option CmdWord := (readLine cs).bind assemble

end Sys2Proof.Machine
end

