-- ==== Sys2Proof/Safety.lean ====
section
/-! DEFINITION. What counts as a safe state and a safe run: the invariant of the machine
(spec/10_state.md R24, R27; spec/20_memory.md R61; spec/60_exceptions.md R182), the events a run hands to
the bus master (spec/20_memory.md R60), and an environment that lets a command run through. -/
namespace Sys2Proof.Machine

/-! ### Transactions of an event list -/

/-- One event added to what has passed of a transaction: its address and its bytes so far (R186). -/
def trackEvent (open? : Option (BusAddr × List Byte)) : Event → Option (BusAddr × List Byte)
  | .start a => some (a, [])
  | .byte b => open?.map fun (a, bs) => (a, bs ++ [b])
  | .stop => none

/-- The transaction left open by a list of events. -/
def openTxnOf (evs : List Event) : Option (BusAddr × List Byte) := evs.foldl trackEvent none

/-! ### The invariant -/

/-- The transaction that is open by the sequencer's own account: the events emitted so far (R28). -/
def State.pendingTxn (s : State) : Option (BusAddr × List Byte) :=
  if s.seq.active then openTxnOf (s.eventList.take s.seq.upc.toNat) else none

/-- The pointer a chip has after the bytes of a transaction: the register address, moved on by every data
byte (R186). -/
def pointerAfter : List Byte → Option Byte
  | [] => none
  | r :: data => some (r + BitVec.ofNat 8 data.length)

/-- A chip at `a` agrees with the open transaction: if it hears it, its pointer stands where the bytes so far
put it. -/
def Chip.agrees (c : Chip) (a : BusAddr) (t : OpenTxn) (bytes : List Byte) : Bool :=
  !t.reaches a || (pointerAfter bytes).all (· == c.ptr)

/-- The bus master and the chips agree with the sequencer about the open transaction. -/
def State.busAgrees (s : State) : Bool :=
  match s.pendingTxn, s.txn with
  | none, none => true
  | some (a, bytes), some t =>
    t.addr == a && (t.ptrSet == !bytes.isEmpty || t.cut) &&
      s.chip4.agrees s.cfg.addr4 t bytes && s.chip6.agrees s.cfg.addr6 t bytes
  | _, _ => false

/-- The latched random value is one a WRAND may be accepted with (R150, R173). -/
def State.latchedRandomLegal (s : State) : Bool :=
  match decodeCmd s.seq.cmd with
  | .wrand _ _ => rngInRange s.seq.rnd
  | _ => true

/-- The sequencer's part of the invariant: while active, the bus is open (R182), an event is left (R24) and
the random value is legal; while idle, `S.upc` is 0 (R162, R167). -/
def State.seqAgrees (s : State) : Bool :=
  if s.seq.active then
    s.seq.initDone && decide (s.seq.upc.toNat < s.eventList.length) && s.latchedRandomLegal
  else s.seq.upc == 0

/-- The invariant every step keeps. -/
structure State.Inv (s : State) : Prop where
  /-- `ADDR_6 != ADDR_4` (R9). -/
  addrs : s.cfg.addr4 ≠ s.cfg.addr6
  /-- The default current limit of either chip is above 20 mA (R185, D28). -/
  currents : ∀ u, aboveLimit (s.cfg.defaults u) = true
  sequencer : s.seqAgrees = true
  bus : s.busAgrees = true

/-! ### Runs -/

/-- The event handed to the bus master in the step from `s` (R162); none where the step emits nothing. -/
def State.handedOver (s : State) : Option Event :=
  if s.sample.inputs.evReady then s.sample.drivenEvent else none

/-- The chip of a target is power-cycled in this step (R196). -/
def Inputs.cycles (i : Inputs) : DisplayTarget → Bool
  | .fourDigit => i.cycle4
  | .sixDigit => i.cycle6

/-- In the step from `s` the chip of `u` receives a byte as data: the byte is handed over and delivered in a
transaction with the chip's own address, past its register byte, of which nothing has been dropped (R181,
R186). -/
def State.dataReaches (s : State) (u : DisplayTarget) : Prop :=
  ∃ b o, s.handedOver = some (.byte b) ∧ s.sample.txn = some o ∧ o.addr = s.cfg.addr u ∧ o.ptrSet = true ∧
    o.cut = false ∧ s.sample.inputs.deliver = true

/-- The events handed over in the first `k` steps, in order. -/
def trace : Nat → State → List Event
  | 0, _ => []
  | k + 1, s =>
    s.handedOver.toList ++
      match step s with
      | .next t => trace k t
      | .fault _ => []
      | .refused _ => []

/-- In this step the command word `w` is presented, the block is not reset and no chip is power-cycled. -/
def Inputs.offers (i : Inputs) (w : CmdWord) : Bool :=
  i.cmdValid && i.cmdWord == w && !i.rst && !i.cycle4 && !i.cycle6

/-- In this step the bus master accepts an event, whether or not it delivers it, and the block is not reset. -/
def Inputs.accepting (i : Inputs) : Bool := i.evReady && !i.rst

/-- In this step the bus master accepts an event and delivers it, and nothing disturbs the block or the
chips. -/
def Inputs.smooth (i : Inputs) : Bool := i.accepting && i.deliver && !i.cycle4 && !i.cycle6

/-- The word `w` is a command that an idle block accepts now: its opcode is legal, the bus is open or it is
INIT itself, and a WRAND finds the random value `r` in range (R160). -/
def State.admits (s : State) (w : CmdWord) (r : RandomWord) : Bool :=
  match decodeCmd w with
  | .init _ => true
  | .wrand _ _ => s.seq.initDone && rngInRange r
  | .wtext _ _ _ _ _ _ _ _ | .rstdisp _ _ | .setbrt _ _ _ _ => s.seq.initDone
  | _ => false

/-- The random value latched with the word `w` when `rng_value` is `r` (R160). -/
def latchedRandom (w : CmdWord) (r : RandomWord) : RandomWord :=
  match decodeCmd w with
  | .wrand _ _ => r
  | _ => 0

/-- The schedule `i`, then `coming`, then `rest`: an idle block with the word `w` presented first, the word
one it accepts, and then as many steps as it has events. -/
structure State.Runs (s : State) (w : CmdWord) (i : Inputs) (coming rest : List Inputs) : Prop where
  inv : s.Inv
  idle : s.seq.active = false
  planned : s.schedule = i :: (coming ++ rest)
  presented : i.offers w = true
  admitted : s.admits w i.rngValue = true
  enough : coming.length = (events s.cfg (decodeCmd w) (latchedRandom w i.rngValue)).length

/-- `k` steps, stopping at the first fault or refusal. -/
def runSteps : Nat → State → Result
  | 0, s => .next s
  | k + 1, s =>
    match step s with
    | .next t => runSteps k t
    | .fault f => .fault f
    | .refused r => .refused r

/-! ### Views that forget -/

/-- An outcome with its next state changed by `f`. -/
def mapNext (f : State → State) : Result → Result
  | .next s => .next (f s)
  | .fault r => .fault r
  | .refused r => .refused r

/-- The state with the latched command word forgotten. -/
def State.forgetCmd (s : State) : State := s.withSeq { s.seq with cmd := 0 }

/-- The state with every present and coming close status forgotten (R22, R162). -/
def State.forgetBusStatus (s : State) : State :=
  (s.withInputs { s.inputs with busStatus := 0 }).withSchedule (s.schedule.map fun i => { i with busStatus := 0 })

end Sys2Proof.Machine
end

