-- ==== Sys2Proof/Certificates/Slice0/Obligations.lean ====
section
/-! DEFINITION. The statements for the provers. Each is about every state, or every state that meets the
invariant State.Inv, which rules out states no run reaches; a state's straps are arbitrary, so each holds
for every build. -/
open Sys2Proof Sys2Proof.Machine

/-! ### Encoding -/

/-- R85: each example line assembles to its word, written out from the format tables, and the word decodes to
what it is an example of. -/
def Obligations.ExampleWordsDecode : Prop :=
  ∀ p ∈ ([(.init, 0x0000000000000001, .init 0),
      (.wtext 4 [0x31, 0x32, 0x33, 0x34], 0x0000343332314042, .wtext 4 4 0x31 0x32 0x33 0x34 0 0),
      (.wtext 4 [0x41, 0x42], 0x0000000042412042, .wtext 4 2 0x41 0x42 0 0 0 0),
      (.wtext 6 [0x39, 0x30], 0x0000000030392062, .wtext 6 2 0x39 0x30 0 0 0 0),
      (.blank 6, 0x0000000000000062, .wtext 6 0 0 0 0 0 0 0), (.wtext 6 [], 0x0000000000000062, .wtext 6 0 0 0 0 0 0 0),
      (.wrand 4, 0x0000000000000043, .wrand 4 0), (.wrand 6, 0x0000000000000063, .wrand 6 0),
      (.rstdisp 4, 0x0000000000000044, .rstdisp 4 0), (.rstdisp 6, 0x0000000000000064, .rstdisp 6 0),
      (.setbrt 4 50, 0x0000000000320045, .setbrt 4 0 50 0), (.setbrt 4 100, 0x0000000000640045, .setbrt 4 0 100 0),
      (.setbrt 6 (-5), 0x00000000FFFB0065, .setbrt 6 0 (-5) 0),
      (.setbrt 6 250, 0x0000000000FA0065, .setbrt 6 0 250 0)] : List (AsmLine × CmdWord × Instr)),
    assemble p.1 = some p.2.1 ∧ decode (wordBytes p.2.1) = .instr p.2.2

/-- Decode and encode agree on every well-formed instruction, ignored bits included. -/
def Obligations.DecodeOfEncode : Prop :=
  ∀ i : Instr, i.wellFormed = true → decode (encode i) = .instr i

/-- Every command word and every LUT code has one meaning, and encoding it gives it back. -/
def Obligations.EncodeOfDecode : Prop :=
  (∀ w : CmdWord, (decodeCmd w).wellFormed = true ∧ encode (decodeCmd w) = wordBytes w) ∧
  (∀ c : Byte, (decodeLut c).wellFormed = true ∧ encode (decodeLut c) = [c])

/-- R79: the decoder is total and the opcode alone selects the command. -/
def Obligations.OpcodeAloneSelectsCommand : Prop :=
  ∀ w : CmdWord,
    (opField w = 1 ↔ ∃ ign, decodeCmd w = .init ign) ∧
    (opField w = 2 ↔ ∃ dc len c0 c1 c2 c3 c4 c5, decodeCmd w = .wtext dc len c0 c1 c2 c3 c4 c5) ∧
    (opField w = 3 ↔ ∃ dc ign, decodeCmd w = .wrand dc ign) ∧
    (opField w = 4 ↔ ∃ dc ign, decodeCmd w = .rstdisp dc ign) ∧
    (opField w = 5 ↔ ∃ dc lo pct hi, decodeCmd w = .setbrt dc lo pct hi) ∧
    ((opField w = 0 ∨ 6 ≤ opField w) ↔ (decodeCmd w).isIllegal = true)

/-- R78 (b): the bits a format ignores, and the character slots at or after LEN (R75), change neither the
events nor anything an acceptance does but the latched word itself. -/
def Obligations.IgnoredBitsHaveNoEffect : Prop :=
  ∀ (i : Instr) (s : State) (r : RandomWord),
    events s.cfg i.clearIgnored r = events s.cfg i r ∧
    mapNext State.forgetCmd (exec i.clearIgnored s) = mapNext State.forgetCmd (exec i s)

/-- R83: BLANK encodes a WTEXT of length 0, which stages N(DC) bytes of 0x00 and commits them. -/
def Obligations.BlankStagesZerosAndCommits : Prop :=
  ∀ (cfg : Config) (dc : BitVec 8) (r : RandomWord),
    assemble (.blank dc.toNat) = assemble (.wtext dc.toNat []) ∧
    ∃ w, assemble (.blank dc.toNat) = some w ∧
      events cfg (decodeCmd w) r =
        txnEvents (busAddr cfg dc) (0x01 :: List.replicate (digitCount dc) 0x00) ++
        txnEvents (busAddr cfg dc) [0x0C, cfg.commitPayload]

/-- R84: assembling the listing, as it is written, reproduces every word, legal or not, ignored bits included.
How a quote, a backslash or an unprintable character is written is the model's choice (log entry 22). -/
def Obligations.AssembleOfDisassemble : Prop :=
  ∀ w : CmdWord, assembleLine (disassemble w).spell = some w ∧ assemble (disassemble w) = some w

/-- R84: a word is printed as its mnemonic and the operands its format reads exactly when its OP is legal, it has
no ignored bit set and its LEN is at most 6; every other word is printed as `.dword`. -/
def Obligations.DisassemblyPrintsItsOperands : Prop :=
  ∀ w : CmdWord,
    (disassemble w = .dword w ↔ (decodeCmd w).isIllegal = true ∨ (decodeCmd w).clearIgnored ≠ decodeCmd w ∨
      (opField w = 2 ∧ 6 < (lenField w).toNat)) ∧
    (disassemble w ≠ .dword w →
      (opField w = 1 → disassemble w = .init) ∧
      (opField w = 2 → disassemble w =
        .wtext (dcField w).toNat ((List.range (lenField w).toNat).map fun i => charField w i)) ∧
      (opField w = 3 → disassemble w = .wrand (dcField w).toNat) ∧
      (opField w = 4 → disassemble w = .rstdisp (dcField w).toNat) ∧
      (opField w = 5 → disassemble w = .setbrt (dcField w).toNat (pctField w).toInt))

/-- R82: a line whose operands are in range is read back as it was spelled. The spelling is the model's choice
where R82 leaves it open (log entry 22). -/
def Obligations.SpelledLinesAreReadBack : Prop :=
  readLine AsmLine.init.spell = some .init ∧
  (∀ (dc : BitVec 8) (text : List Byte), readLine (AsmLine.wtext dc.toNat text).spell = some (.wtext dc.toNat text)) ∧
  (∀ dc : BitVec 8, readLine (AsmLine.wrand dc.toNat).spell = some (.wrand dc.toNat)) ∧
  (∀ dc : BitVec 8, readLine (AsmLine.rstdisp dc.toNat).spell = some (.rstdisp dc.toNat)) ∧
  (∀ (dc : BitVec 8) (pct : BitVec 16),
    readLine (AsmLine.setbrt dc.toNat pct.toInt).spell = some (.setbrt dc.toNat pct.toInt)) ∧
  (∀ dc : BitVec 8, readLine (AsmLine.blank dc.toNat).spell = some (.blank dc.toNat)) ∧
  (∀ w : CmdWord, readLine (AsmLine.dword w).spell = some (.dword w))

/-- R82: the word each line encodes, and the lines the assembler refuses. -/
def Obligations.AssemblerEncodesEachLine : Prop :=
  assemble .init = some 0x1 ∧
  (∀ (dc : Nat) (text : List Byte), assemble (.wtext dc text) = none ↔ 255 < dc ∨ 6 < text.length) ∧
  (∀ (dc : Nat) (text : List Byte) (w : CmdWord), assemble (.wtext dc text) = some w →
    opField w = 2 ∧ (dcField w).toNat = dc ∧ (lenField w).toNat = text.length ∧
    ∀ i < 6, charField w i = (text[i]?).getD 0) ∧
  (∀ dc : Nat, assemble (.wrand dc) = if dc ≤ 255 then some (BitVec.ofNat 64 (16 * dc + 3)) else none) ∧
  (∀ dc : Nat, assemble (.rstdisp dc) = if dc ≤ 255 then some (BitVec.ofNat 64 (16 * dc + 4)) else none) ∧
  (∀ (dc : Nat) (pct : Int), assemble (.setbrt dc pct) = none ↔ 255 < dc ∨ pct < -32768 ∨ 32767 < pct) ∧
  (∀ (dc : Nat) (pct : Int) (w : CmdWord), assemble (.setbrt dc pct) = some w →
    opField w = 5 ∧ (dcField w).toNat = dc ∧ lenField w = 0 ∧ (pctField w).toInt = pct ∧ w.toNat < 2 ^ 32) ∧
  (∀ w : CmdWord, assemble (.dword w) = some w)

/-! ### The glyph ROM and the LUT port -/

/-- R102, R103: the ROM holds exactly the entries of the table; those of '2' to '8' in a build with the
standard glyphs (log entry 4), the rest in every build. -/
def Obligations.RomHoldsTheGlyphTable : Prop :=
  ∀ cfg : Config,
    (rom cfg 0x30 = 0x3F ∧ rom cfg 0x31 = 0x06 ∧ rom cfg 0x39 = 0x6F) ∧
    (cfg.glyphs2to8 = Config.standardGlyphs →
      rom cfg 0x32 = 0x5B ∧ rom cfg 0x33 = 0x4F ∧ rom cfg 0x34 = 0x66 ∧ rom cfg 0x35 = 0x6D ∧
      rom cfg 0x36 = 0x7D ∧ rom cfg 0x37 = 0x07 ∧ rom cfg 0x38 = 0x7F) ∧
    (∀ c : Byte, ¬ (0x30 ≤ c ∧ c ≤ 0x39) → rom cfg c = 0x00)

/-- R105: with the standard glyphs, exactly the ten digit codes have a non-zero entry, bit 7 is never set,
the ten glyphs are distinct, '8' alone lights every segment, and a digit has its documented bitmap. -/
def Obligations.GlyphRomProperties : Prop :=
  ∀ cfg : Config, cfg.glyphs2to8 = Config.standardGlyphs →
    (∀ c : Byte, rom cfg c ≠ 0 ↔ (0x30 ≤ c ∧ c ≤ 0x39)) ∧
    (∀ c : Byte, (rom cfg c).getLsbD 7 = false) ∧
    (∀ c c' : Byte, 0x30 ≤ c → c ≤ 0x39 → 0x30 ≤ c' → c' ≤ 0x39 → rom cfg c = rom cfg c' → c = c') ∧
    (∀ c : Byte, (∀ k < 7, (rom cfg c).getLsbD k = true) ↔ c = 0x38) ∧ rom cfg 0x38 = 0x7F ∧
    (∀ k < 10, ([0x3F, 0x06, 0x5B, 0x4F, 0x66, 0x6D, 0x7D, 0x07, 0x7F, 0x6F] : List Byte)[k]? =
      some (rom cfg (BitVec.ofNat 8 (0x30 + k))))

/-- R100: `enc_seg` shows the ROM's entry of the code on `enc_char`, and nothing else moves: busy or idle, in reset
or not. That a lookup, as an instruction, drives its code on `enc_char` is the model's choice (log entry 13), and
the glyphs of '2' to '8' are those of a build with the standard ones (log entry 4). -/
def Obligations.LookupsShowTheirGlyphs : Prop :=
  ∀ s : State,
    (∀ p ∈ ([(.glyph0, 0x30, 0x3F), (.glyph1, 0x31, 0x06), (.glyph9, 0x39, 0x6F)] : List (Instr × Byte × Byte)),
      exec p.1 s = .next { s with inputs := { s.inputs with encChar := p.2.1 } } ∧
      State.encSeg { s with inputs := { s.inputs with encChar := p.2.1 } } = p.2.2) ∧
    (∀ p ∈ ([(.glyph2, 0x32, 0x5B), (.glyph3, 0x33, 0x4F), (.glyph4, 0x34, 0x66), (.glyph5, 0x35, 0x6D),
        (.glyph6, 0x36, 0x7D), (.glyph7, 0x37, 0x07), (.glyph8, 0x38, 0x7F)] : List (Instr × Byte × Byte)),
      exec p.1 s = .next { s with inputs := { s.inputs with encChar := p.2.1 } } ∧
      (s.cfg.glyphs2to8 = Config.standardGlyphs →
        State.encSeg { s with inputs := { s.inputs with encChar := p.2.1 } } = p.2.2)) ∧
    (∀ c : Byte, (Instr.glyphBlank c).wellFormed = true →
      exec (.glyphBlank c) s = .next { s with inputs := { s.inputs with encChar := c } } ∧
      State.encSeg { s with inputs := { s.inputs with encChar := c } } = 0x00)

/-! ### Operands -/

/-- R26: any digit count but exactly 4 selects the six-digit unit. -/
def Obligations.DigitCountNormalization : Prop :=
  ∀ (cfg : Config) (dc : BitVec 8),
    (dc = 4 → target dc = .fourDigit ∧ digitCount dc = 4 ∧ busAddr cfg dc = cfg.addr4) ∧
    (dc ≠ 4 → target dc = .sixDigit ∧ digitCount dc = 6 ∧ busAddr cfg dc = cfg.addr6)

/-- R123: the duty byte is the nearest integer to `percent / 100 * 128` with no tie, clamped at both ends,
and 0x80 is reached only from 100 on. -/
def Obligations.DutyIsNearestAndClamped : Prop :=
  ∀ p : Int,
    (p ≤ 0 → duty p = 0x00) ∧ (100 ≤ p → duty p = 0x80) ∧ (duty p = 0x80 → 100 ≤ p) ∧ duty p ≤ 0x80 ∧
    (0 ≤ p → p ≤ 100 → 2 * |100 * ((duty p).toNat : Int) - 128 * p| < 100)

/-- R124: the six characters are the decimal digits of a random value in range, the first is never '0', and a
module of N positions is staged the leftmost N of them. -/
def Obligations.DecimalDigitsOfRandom : Prop :=
  ∀ r : RandomWord, 100000 ≤ r.toNat → r.toNat ≤ 999998 →
    ∃ d5 d4 d3 d2 d1 d0 : Nat,
      1 ≤ d5 ∧ d5 ≤ 9 ∧ d4 ≤ 9 ∧ d3 ≤ 9 ∧ d2 ≤ 9 ∧ d1 ≤ 9 ∧ d0 ≤ 9 ∧
      r.toNat = d5 * 100000 + d4 * 10000 + d3 * 1000 + d2 * 100 + d1 * 10 + d0 ∧
      decimal r = #v[BitVec.ofNat 8 (0x30 + d5), BitVec.ofNat 8 (0x30 + d4), BitVec.ofNat 8 (0x30 + d3),
        BitVec.ofNat 8 (0x30 + d2), BitVec.ofNat 8 (0x30 + d1), BitVec.ofNat 8 (0x30 + d0)] ∧
      ∀ (cfg : Config) (dc : BitVec 8), stagedBytes cfg (digitCount dc) 6 (decimal r) =
        ((decimal r).toList.take (digitCount dc)).map (rom cfg)

/-- R150, corner cases: a WRAND stages a digit's glyph at every position, and never '0' at the first. -/
def Obligations.WrandStagesDigitsOnly : Prop :=
  ∀ (cfg : Config) (dc : BitVec 8) (r : RandomWord), rngInRange r = true →
    ∃ codes : List Byte, codes.length = digitCount dc ∧ (∀ c ∈ codes, 0x30 ≤ c ∧ c ≤ 0x39) ∧
      codes.head? ≠ some 0x30 ∧
      stagedBytes cfg (digitCount dc) 6 (decimal r) = codes.map (rom cfg)

/-! ### Event lists -/

/-- R125: the event list of every command word, by its fields, and the lists' lengths. -/
def Obligations.EventListsOfCommands : Prop :=
  ∀ (cfg : Config) (w : CmdWord) (r : RandomWord),
    (opField w = 1 → events cfg (decodeCmd w) r = setCur cfg.addr4 CUR_MAX ++ setCur cfg.addr6 CUR_MAX ∧
      (events cfg (decodeCmd w) r).length = 8) ∧
    (opField w = 2 → events cfg (decodeCmd w) r =
        stage cfg (dcField w) (lenField w).toNat (Vector.ofFn fun i => charField w i) ++ commit cfg (dcField w) ∧
      (events cfg (decodeCmd w) r).length = if dcField w = 4 then 11 else 13) ∧
    (opField w = 3 → events cfg (decodeCmd w) r = stage cfg (dcField w) 6 (decimal r) ++ commit cfg (dcField w) ∧
      (events cfg (decodeCmd w) r).length = if dcField w = 4 then 11 else 13) ∧
    (opField w = 4 → events cfg (decodeCmd w) r =
        resetTxn cfg (dcField w) ++ setCur (busAddr cfg (dcField w)) CUR_MAX ∧
      (events cfg (decodeCmd w) r).length = 8) ∧
    (opField w = 5 → events cfg (decodeCmd w) r = setPwm cfg (dcField w) (pctField w).toInt ∧
      (events cfg (decodeCmd w) r).length = 4) ∧
    (opField w = 0 ∨ 6 ≤ opField w → events cfg (decodeCmd w) r = [])

/-- R130: exactly N(DC) data bytes are staged whatever LEN is, a glyph at each position the text has and 0x00
at the others. -/
def Obligations.StagingIsAlwaysFull : Prop :=
  ∀ (cfg : Config) (dc : BitVec 8) (len : Nat) (cs : Vector Byte 6),
    ∃ g : List Byte, stage cfg dc len cs = txnEvents (busAddr cfg dc) (0x01 :: g) ∧ g.length = digitCount dc ∧
      ∀ (i : Nat) (h : i < 6), i < digitCount dc → g[i]? = some (if i < len then rom cfg cs[i] else 0x00)

/-- R52, R121: a command's events are whole transactions, each to `ADDR_4` or `ADDR_6` with a register byte and
at least one data byte; and no register is addressed but those of R54, the current limit only with
`CUR_MAX` (R135). -/
def Obligations.CommandsEmitWholeTransactions : Prop :=
  ∀ (cfg : Config) (w : CmdWord) (r : RandomWord),
    ∃ txns : List (BusAddr × List Byte),
      events cfg (decodeCmd w) r = (txns.map fun (a, bs) => txnEvents a bs).flatten ∧
      ∀ t ∈ txns, (t.1 = cfg.addr4 ∨ t.1 = cfg.addr6) ∧
        ((∃ data, t.2 = 0x01 :: data ∧ data.length = digitCount (dcField w)) ∨
         (∃ b, t.2 = [0x0C, b]) ∨ t.2 = [0x0D, 0x0B] ∨ (∃ d : Byte, d ≤ 0x80 ∧ t.2 = [0x19, d]) ∨
         (∃ b, t.2 = [0xFF, b]))

/-! ### Acceptance and rejection -/

/-- R140: INIT is accepted by every idle block, initialized or not, and opens the bus. -/
def Obligations.InitIsAccepted : Prop :=
  ∀ (ign : BitVec 60) (s : State), s.cmdReady = true →
    exec (.init ign) s = .next { s with seq := { s.seq with
      active := true, cmd := ign ++ (0x1 : BitVec 4), rnd := 0, upc := 0, initDone := true } }

/-- R145, R153, R155: WTEXT, RSTDISP and SETBRT are accepted by an idle, initialized block whatever their
operands are. -/
def Obligations.TextResetAndBrightnessAreAccepted : Prop :=
  ∀ s : State, s.cmdReady = true → s.seq.initDone = true →
    (∀ dc len c0 c1 c2 c3 c4 c5, exec (.wtext dc len c0 c1 c2 c3 c4 c5) s = .next { s with seq := { s.seq with
      active := true, cmd := wordT 0x2 dc len c0 c1 c2 c3 c4 c5, rnd := 0, upc := 0 } }) ∧
    (∀ dc ign, exec (.rstdisp dc ign) s = .next { s with seq := { s.seq with
      active := true, cmd := wordD 0x4 dc ign, rnd := 0, upc := 0 } }) ∧
    (∀ dc lo pct hi, exec (.setbrt dc lo pct hi) s = .next { s with seq := { s.seq with
      active := true, cmd := wordB 0x5 dc lo pct hi, rnd := 0, upc := 0 } })

/-- R150: WRAND is accepted by an idle, initialized block when `rng_value` is in range, and latches it. -/
def Obligations.WrandIsAcceptedInRange : Prop :=
  ∀ (dc : BitVec 8) (ign : BitVec 52) (s : State), s.cmdReady = true → s.seq.initDone = true →
    100000 ≤ s.inputs.rngValue.toNat → s.inputs.rngValue.toNat ≤ 999998 →
    exec (.wrand dc ign) s = .next { s with seq := { s.seq with
      active := true, cmd := wordD 0x3 dc ign, rnd := s.inputs.rngValue, upc := 0 } }

/-- R171: every illegal opcode is rejected by an idle block; the bit is recorded and nothing else. -/
def Obligations.IllegalOpcodesAreRejected : Prop :=
  ∀ (i : Instr) (s : State), i.isIllegal = true → s.cmdReady = true →
    exec i s = .next { s with seq := { s.seq with errIllegal := true } }

/-- R172: a legal command other than INIT is rejected while the bus is not open, a WRAND whatever the random
value is; INIT never sets the bit. -/
def Obligations.CommandsBeforeInitAreRejected : Prop :=
  (∀ (i : Instr) (s : State), i.needsInit = true → s.cmdReady = true → s.seq.initDone = false →
    exec i s = .next { s with seq := { s.seq with errNoinit := true } }) ∧
  (∀ (ign : BitVec 60) (s t : State), exec (.init ign) s = .next t → t.seq.errNoinit = s.seq.errNoinit)

/-- R173: a WRAND with `rng_value` out of range is rejected, and the value is not latched. -/
def Obligations.RandomOutOfRangeIsRejected : Prop :=
  ∀ (dc : BitVec 8) (ign : BitVec 52) (s : State), s.cmdReady = true → s.seq.initDone = true →
    ¬ (100000 ≤ s.inputs.rngValue.toNat ∧ s.inputs.rngValue.toNat ≤ 999998) →
    exec (.wrand dc ign) s = .next { s with seq := { s.seq with errRng := true } }

/-- A command presented while `cmd_ready = 0` is not taken (R21; the model's reading, log entry 12). -/
def Obligations.BusyBlockTakesNoCommand : Prop :=
  ∀ (i : Instr) (s : State), i.isCommandWord = true → s.cmdReady = false → exec i s = .next s

/-- R160: the acceptance step, for every word: the checks in their order, and the whole word latched. -/
def Obligations.AcceptanceStep : Prop :=
  ∀ s : State, s.inputs.rst = false → s.seq.active = false → s.inputs.cmdValid = true →
    ∀ q : Sequencer, q = (
      if opField s.inputs.cmdWord = 0 ∨ 6 ≤ opField s.inputs.cmdWord then { s.seq with errIllegal := true }
      else if opField s.inputs.cmdWord ≠ 1 ∧ s.seq.initDone = false then { s.seq with errNoinit := true }
      else if opField s.inputs.cmdWord = 3 ∧
          ¬ (100000 ≤ s.inputs.rngValue.toNat ∧ s.inputs.rngValue.toNat ≤ 999998) then
        { s.seq with errRng := true }
      else
        { s.seq with
          cmd := s.inputs.cmdWord
          rnd := if opField s.inputs.cmdWord = 3 then s.inputs.rngValue else 0
          upc := 0
          active := true
          initDone := s.seq.initDone || opField s.inputs.cmdWord == 1 }) →
    sequencerPhase s = .next { s with seq := q }

/-! ### The step -/

/-- A step runs the decoded command: when the environment's move presents a word to an idle block, the step is
exec of the decoded word at that state (R160). The second clause is about State.presentWord, the model's choice
of how a command comes to be presented in the next step: it makes a busy block idle first (log entry 9). -/
def Obligations.StepRunsThePresentedCommand : Prop :=
  (∀ (s : State) (i : Instr), s.sample.inputs.rst = false → s.sample.seq.active = false →
    s.sample.inputs.cmdValid = true → decode (wordBytes s.sample.inputs.cmdWord) = .instr i →
    step s = exec i s.sample) ∧
  (∀ (s : State) (w : CmdWord) (i : Instr), decode (wordBytes w) = .instr i →
    step (s.presentWord w) = exec i (s.presentWord w).sample)

/-- R166: `enc_seg = ROM(enc_char)` after every step, whatever the sequencer does, and the sequencer's step is the
same whatever stands on `enc_char`. That a step runs the lookup as an instruction, and before the sequencer's
part, is the model's choice (log entries 13 and 24), and so is State.presentCode, which makes the sequencer of a
busy block wait (log entry 9). -/
def Obligations.StepRunsTheLookup : Prop :=
  (∀ s : State, exec (decodeLut s.sample.inputs.encChar) s.sample = .next s.sample ∧
    step s = sequencerPhase s.sample) ∧
  (∀ s t : State, step s = .next t → t.encSeg = rom s.cfg s.sample.inputs.encChar) ∧
  (∀ (s : State) (c : Byte), sequencerPhase { s with inputs := { s.inputs with encChar := c } } =
    mapNext (fun t => { t with inputs := { t.inputs with encChar := c } }) (sequencerPhase s)) ∧
  (∀ (s : State) (c : Byte), step (s.presentCode c) = exec (decodeLut c) (s.presentCode c).sample)

/-- R162: an emission step hands over the presented event and moves `S.upc`, to the end of the command after
the last one; `S` changes in nothing else. That the bus master carries the event to the chips in the same step is
the model's choice (log entry 14). -/
def Obligations.EmissionStep : Prop :=
  ∀ s : State, s.Inv → s.inputs.rst = false → s.seq.active = true → s.inputs.evReady = true →
    ∃ (e : Event) (t : State), s.drivenEvent = some e ∧ carry e s = .next t ∧
      t.seq = s.seq ∧ t.cfg = s.cfg ∧ t.inputs = s.inputs ∧ t.schedule = s.schedule ∧
      (s.seq.upc.toNat + 1 = s.eventList.length →
        sequencerPhase s = .next { t with seq := { s.seq with active := false, upc := 0 } }) ∧
      (s.seq.upc.toNat + 1 ≠ s.eventList.length →
        sequencerPhase s = .next { t with seq := { s.seq with upc := s.seq.upc + 1 } })

/-- R163: with no event accepted and no command presented the block waits and changes in nothing (the model
reads 'no step' as a step that changes nothing but the environment, log entry 8). -/
def Obligations.WaitingChangesNothing : Prop :=
  (∀ s : State, s.inputs.rst = false → s.seq.active = true → s.inputs.evReady = false →
    sequencerPhase s = .next s) ∧
  (∀ s : State, s.inputs.rst = false → s.seq.active = false → s.inputs.cmdValid = false →
    sequencerPhase s = .next s)

/-- R200: `rst` has priority over acceptance and emission; the sequencer state takes its reset values, the
outputs are 0 while `rst = 1`, and the LUT port still answers. The chips keep what they hold (R204) and an
open transaction ends (R182). -/
def Obligations.BlockReset : Prop :=
  (∀ s : State, s.sample.inputs.rst = true → step s = .next { s.sample with txn := none, seq :=
    { active := false, cmd := 0, rnd := 0, upc := 0, initDone := false, errIllegal := false,
      errNoinit := false, errRng := false } }) ∧
  (∀ s : State, s.inputs.rst = true → s.cmdReady = false ∧ s.evValid = false ∧ s.busEn = false ∧
    s.status = 0x00 ∧ s.evKind = 0b00 ∧ s.evData = 0x00 ∧ s.encSeg = rom s.cfg s.inputs.encChar)

/-! ### The output ports -/

/-- R30: STATUS bit by bit while `rst = 0`, bits 7:6 always 0. -/
def Obligations.StatusBits : Prop :=
  ∀ s : State, s.inputs.rst = false →
    s.status.getLsbD 0 = s.seq.active ∧ s.status.getLsbD 1 = s.seq.initDone ∧
    s.status.getLsbD 2 = s.seq.errIllegal ∧ s.status.getLsbD 3 = s.seq.errNoinit ∧
    s.status.getLsbD 4 = s.seq.errRng ∧ s.status.getLsbD 5 = s.txnOpen ∧
    s.status.getLsbD 6 = false ∧ s.status.getLsbD 7 = false

/-- R21, R22: the handshake ports, and the kind and datum of the presented event. -/
def Obligations.HandshakePorts : Prop :=
  ∀ s : State,
    (s.cmdReady = true ↔ s.seq.active = false ∧ s.inputs.rst = false) ∧
    (s.evValid = true ↔ s.seq.active = true ∧ s.inputs.rst = false) ∧
    (s.inputs.rst = false → s.busEn = s.seq.initDone) ∧
    (s.evValid = false → s.evKind = 0b00 ∧ s.evData = 0x00) ∧
    (s.evValid = true →
      (∀ a, s.presented = some (.start a) → s.evKind = 0b00 ∧ s.evData = a.setWidth 8) ∧
      (∀ b, s.presented = some (.byte b) → s.evKind = 0b01 ∧ s.evData = b) ∧
      (s.presented = some .stop → s.evKind = 0b10 ∧ s.evData = 0x00)) ∧
    s.evKind ≠ 0b11

/-- R28: STATUS.TXN_OPEN, which the sequencer computes from its event list, is 1 exactly while the bus master
has a transaction open. -/
def Obligations.TxnOpenAgreesWithTheBus : Prop :=
  ∀ s : State, s.Inv → s.txnOpen = s.txn.isSome

/-- R61, R212: a transaction is opened only while none is open, and a byte or a stop is handed over only inside
one, whatever has been delivered. -/
def Obligations.TransactionsAreNeverInterleaved : Prop :=
  ∀ s : State, s.Inv →
    (∀ a, s.handedOver = some (.start a) → s.txn = none) ∧
    (∀ b, s.handedOver = some (.byte b) → s.txn.isSome = true) ∧
    (s.handedOver = some .stop → s.txn.isSome = true)

/-- R193: at each text position a module lights, at the mapped physical position, exactly the segments that are
set in the live data, at the chip's brightness and current. -/
def Obligations.DisplayShowsTheLiveData : Prop :=
  ∀ s : State,
    (∀ (i : Nat) (h : i < 4), ∃ segs, (s.shown .fourDigit).lit[i]? = some (s.cfg.digitMap4[i].val, segs) ∧
      ∀ k < 7, segs.getLsbD k = s.chip4.live[i].getLsbD k) ∧
    (s.shown .fourDigit).lit.length = 4 ∧
    (s.shown .fourDigit).pwm = s.chip4.pwm ∧ (s.shown .fourDigit).light = s.chip4.light ∧
    (∀ (i : Nat) (h : i < 6), ∃ segs, (s.shown .sixDigit).lit[i]? = some (s.cfg.digitMap6[i].val, segs) ∧
      ∀ k < 7, segs.getLsbD k = s.chip6.live[i].getLsbD k) ∧
    (s.shown .sixDigit).lit.length = 6 ∧
    (s.shown .sixDigit).pwm = s.chip6.pwm ∧ (s.shown .sixDigit).light = s.chip6.light

/-! ### The driver chips -/

/-- R187 to R191: what a byte written to each register does to a chip. That a chip reset leaves the pointer alone
is the model's reading (log entry 2), and so is that a register R185 does not describe has no modelled effect
(log entry 17). -/
def Obligations.ChipRegisterWrites : Prop :=
  ∀ (d : ChipDefaults) (c : Chip) (b : Byte),
    (∀ (i : Nat) (h : i < 6), c.writeReg d (BitVec.ofNat 8 (0x01 + i)) b = some { c with stg := c.stg.set i b }) ∧
    c.writeReg d 0x0C b = some { c with live := c.stg } ∧
    c.writeReg d 0x0D b = some { c with light := b } ∧
    c.writeReg d 0x19 b = some { c with pwm := b } ∧
    c.writeReg d 0xFF b = some { c with stg := d.stg, live := d.live, pwm := d.pwm, light := d.light } ∧
    (∀ r : Byte, r = 0x00 ∨ (0x07 ≤ r ∧ r ≤ 0x0B) ∨ (0x0E ≤ r ∧ r ≤ 0x18) ∨ (0x1A ≤ r ∧ r ≤ 0xFE) →
      c.writeReg d r b = none)

/-- R186: when the bus master carries an event, a chip changes only by a BYTE of a transaction with its own
address, delivered and not cut: the first byte sets its pointer, a later one is written at the pointer,
which then moves on by one (R186). A START opens a transaction whose next byte is the first, and a STOP ends it.
An event that is not delivered cuts the rest of its transaction off, so that the chip receives a prefix (R181).
The model's choices here: the open transaction and what a START or a STOP does to it in every state (log entry
15), the pointer that moves after every data byte and wraps (log entry 18), and delivery in the same step (log
entry 14). -/
def Obligations.OnlyTheAddressedChipActs : Prop :=
  ∀ (s t : State) (e : Event), carry e s = .next t →
    ((∀ b, e ≠ .byte b) → t.chip4 = s.chip4 ∧ t.chip6 = s.chip6) ∧
    (∀ a, e = .start a → ∃ o, t.txn = some o ∧ o.addr = a ∧ o.ptrSet = false ∧ o.cut = !s.inputs.deliver) ∧
    (e = .stop → t.txn = none) ∧
    (∀ b o, e = .byte b → s.txn = some o →
      (∃ o', t.txn = some o' ∧ o'.addr = o.addr ∧ o'.ptrSet = true ∧ o'.cut = (o.cut || !s.inputs.deliver)) ∧
      (o.addr ≠ s.cfg.addr4 ∨ o.cut = true ∨ s.inputs.deliver = false → t.chip4 = s.chip4) ∧
      (o.addr ≠ s.cfg.addr6 ∨ o.cut = true ∨ s.inputs.deliver = false → t.chip6 = s.chip6) ∧
      (o.addr = s.cfg.addr4 → o.cut = false → s.inputs.deliver = true →
        (o.ptrSet = false → t.chip4 = { s.chip4 with ptr := b }) ∧
        (o.ptrSet = true → ∃ c, s.chip4.writeReg s.cfg.defaults4 s.chip4.ptr b = some c ∧
          t.chip4 = { c with ptr := s.chip4.ptr + 1 })) ∧
      (o.addr = s.cfg.addr6 → o.cut = false → s.inputs.deliver = true →
        (o.ptrSet = false → t.chip6 = { s.chip6 with ptr := b }) ∧
        (o.ptrSet = true → ∃ c, s.chip6.writeReg s.cfg.defaults6 s.chip6.ptr b = some c ∧
          t.chip6 = { c with ptr := s.chip6.ptr + 1 })))

/-- R192: a staging transaction cut short after any number of data bytes sets the entries it reached and
leaves every other register as it was. -/
def Obligations.CutShortStagingKeepsTheRest : Prop :=
  ∀ (d : ChipDefaults) (c : Chip) (data : List Byte), data.length ≤ 6 →
    ∃ c', c.receiveAll d (0x01 :: data) = some c' ∧
      (∀ (i : Nat) (h : i < 6), c'.stg[i] = if h' : i < data.length then data[i] else c.stg[i]) ∧
      c'.live = c.live ∧ c'.pwm = c.pwm ∧ c'.light = c.light

/-- R59: receiving a staging, commit, current-limit, PWM or reset transaction twice leaves the chip as
receiving it once does. -/
def Obligations.RepeatedTransactionIsIdempotent : Prop :=
  ∀ (d : ChipDefaults) (c : Chip) (bs : List Byte),
    ((∃ data, bs = 0x01 :: data ∧ data.length ≤ 6) ∨ (∃ b, bs = [0x0C, b]) ∨ (∃ b, bs = [0x0D, b]) ∨
      (∃ b, bs = [0x19, b]) ∨ (∃ b, bs = [0xFF, b])) →
    ∃ c', c.receiveAll d bs = some c' ∧ c'.receiveAll d bs = some c'

/-- R62: what a chip shows changes in a step only by the chip's own power cycle, or by a data byte that reaches
this chip, in a transaction with its own address, at the commit register or the reset register. That the byte
reaches the chip in the step that hands it over is the model's choice (log entry 14). -/
def Obligations.LiveChangesOnlyByCommitOrReset : Prop :=
  ∀ (s t : State) (u : DisplayTarget), step s = .next t → (t.chip u).live ≠ (s.chip u).live →
    s.sample.inputs.cycles u = true ∨
      (s.dataReaches u ∧ ((s.sample.chip u).ptr = 0x0C ∨ (s.sample.chip u).ptr = 0xFF))

/-- R204: a block reset hands over nothing, and the chips change only by a delivered byte or by their own power
cycle; block reset, acceptance and waiting leave them alone. A byte the bus master does not deliver changes
no chip (R181). That a chip changes only in the step that hands its byte over is the model's choice (log entry
14). -/
def Obligations.ChipsChangeOnlyByBytesOrPowerCycle : Prop :=
  ∀ s t : State, step s = .next t →
    (s.sample.inputs.rst = true → s.handedOver = none) ∧
    ((∀ b, s.handedOver ≠ some (.byte b)) ∨ s.sample.inputs.deliver = false →
      (s.sample.inputs.cycle4 = false → t.chip4 = s.chip4) ∧ (s.sample.inputs.cycle6 = false → t.chip6 = s.chip6))

/-- R196: a power cycle returns a chip to its defaults, whatever the block does in the step. That the power cycle
comes before the step's event, and cuts a transaction open to the chip off, so that no byte of it reaches the
chip, is the model's choice (log entry 16). -/
def Obligations.PowerCycleRestoresDefaults : Prop :=
  ∀ (s t : State) (u : DisplayTarget), step s = .next t → s.sample.inputs.cycles u = true →
    t.chip u = Chip.powerOn (s.cfg.defaults u) ∧ ¬ s.dataReaches u

/-- The transaction that is open when chips are power-cycled: it is cut off exactly when its address is that of a
chip that loses its power, and goes on as it was otherwise. The model's choice (log entry 16). -/
def Obligations.PowerCycleCutsTheOpenTransaction : Prop :=
  ∀ s : State,
    (s.txn = none → s.sample.txn = none) ∧
    (∀ o, s.txn = some o →
      ((∃ u, s.sample.inputs.cycles u = true ∧ o.addr = s.cfg.addr u) → s.sample.txn = some { o with cut := true }) ∧
      (¬ (∃ u, s.sample.inputs.cycles u = true ∧ o.addr = s.cfg.addr u) → s.sample.txn = some o))

/-- R185, R205, R207: a chip that has just been power-cycled, or whose reset register has just been written, runs
above the 20 mA limit; so does either chip in State.reset, which has both chips as they powered on (log entry 7;
a block reset itself leaves the chips alone, R204). The model's choices here: that a power cycle comes before the
step's event and cuts the open transaction off, so that the chip is still at its defaults after the step (log
entry 16), that a byte reaches the chip in the step that hands it over (log entry 14), and the form of a default
current (log entry 2). -/
def Obligations.DefaultCurrentIsAboveTheLimit : Prop :=
  (∀ (s t : State) (u : DisplayTarget), s.Inv → step s = .next t →
    s.sample.inputs.cycles u = true ∨ (s.dataReaches u ∧ (s.sample.chip u).ptr = 0xFF) →
    ∃ mA, t.current u = some mA ∧ 20 < mA) ∧
  (∀ u, ∃ mA, State.reset.current u = some mA ∧ 20 < mA)

/-! ### Invariants -/

/-- The machine after reset meets the invariant, for every build with distinct addresses and default currents
above 20 mA and for the one that State.reset carries; and it is idle with every bit of STATUS 0 (R201). -/
def Obligations.ResetMeetsTheInvariant : Prop :=
  (∀ cfg : Config, cfg.addr4 ≠ cfg.addr6 → (∀ u, aboveLimit (cfg.defaults u) = true) → (State.resetOf cfg).Inv) ∧ State.reset.Inv ∧
  (∀ cfg : Config, (State.resetOf cfg).status = 0x00 ∧ (State.resetOf cfg).cmdReady = true ∧
    (State.resetOf cfg).evValid = false ∧ (State.resetOf cfg).busEn = false)

/-- Every step keeps the invariant: an event is left while a command is active (R24), the bus is open then
(R182), and the bus master and the chips agree with the sequencer about the open transaction (R28, R61). -/
def Obligations.StepKeepsTheInvariant : Prop :=
  ∀ s t : State, s.Inv → step s = .next t → t.Inv

/-- From a state that meets the invariant the machine never stops: no fault and no refusal. -/
def Obligations.InvariantStatesNeverStop : Prop :=
  ∀ s : State, s.Inv → ∃ t, step s = .next t

/-- R9, R32: the straps are fixed for a build; no step writes them. -/
def Obligations.StrapsNeverChange : Prop :=
  ∀ s t : State, step s = .next t → t.cfg = s.cfg

/-- R175: the sticky bits accumulate and only `rst` clears them. -/
def Obligations.StickyBitsStayUntilReset : Prop :=
  ∀ s t : State, step s = .next t → s.sample.inputs.rst = false →
    (s.seq.errIllegal = true → t.seq.errIllegal = true) ∧ (s.seq.errNoinit = true → t.seq.errNoinit = true) ∧
    (s.seq.errRng = true → t.seq.errRng = true) ∧ (s.seq.initDone = true → t.seq.initDone = true)

/-- R22, R176: the close status is read by nothing: a machine that differs in it alone steps alike. -/
def Obligations.BusStatusIsIgnored : Prop :=
  ∀ s : State, step s.forgetBusStatus = mapNext State.forgetBusStatus (step s)

/-- R182, R203: while the bus is not open nothing is handed over, and it stays so until an INIT is accepted. -/
def Obligations.NothingHappensBeforeInit : Prop :=
  ∀ s t : State, s.Inv → s.seq.initDone = false → step s = .next t →
    s.handedOver = none ∧
    (¬ (s.sample.inputs.cmdValid = true ∧ s.sample.inputs.rst = false ∧ opField s.sample.inputs.cmdWord = 1) →
      t.seq.initDone = false ∧ t.seq.active = false)

/-! ### Commands from acceptance to completion -/

/-- R125, R162, R167, R176: whatever command an idle block accepts, when the bus master accepts an event in each
of the following steps the events handed over are exactly the command's list, and then the block is idle
again; delivery does not matter. That the environment's moves stand in a schedule, one a step (log entry 6), and
that an accepted event is carried in the same step (log entry 14), are the model's choices. -/
def Obligations.CommandRunsToCompletion : Prop :=
  ∀ (s : State) (w : CmdWord) (i : Inputs) (coming rest : List Inputs), s.Runs w i coming rest →
    coming.all Inputs.accepting = true →
    ∃ t, runSteps (1 + coming.length) s = .next t ∧
      trace (1 + coming.length) s = events s.cfg (decodeCmd w) (latchedRandom w i.rngValue) ∧
      t.seq = { s.seq with cmd := w, rnd := latchedRandom w i.rngValue, upc := 0, active := false,
                           initDone := true } ∧
      t.txn = none ∧ t.schedule = rest ∧ t.cfg = s.cfg

/-- R140, R207: once INIT has run with every byte delivered, both chips are at the 20 mA limit, and nothing else
of them has changed but their pointers. That the environment's moves stand in a schedule (log entry 6) and that an
accepted byte is delivered in the same step (log entry 14) are the model's choices; that a
current write acts without a commit is the spec's decision (R190, log entry 23). -/
def Obligations.InitLimitsBothChips : Prop :=
  ∀ (s : State) (w : CmdWord) (i : Inputs) (coming rest : List Inputs), s.Runs w i coming rest →
    coming.all Inputs.smooth = true → opField w = 1 →
    ∃ t, runSteps (1 + coming.length) s = .next t ∧
      t.chip4 = { s.chip4 with light := 0x0B, ptr := t.chip4.ptr } ∧
      t.chip6 = { s.chip6 with light := 0x0B, ptr := t.chip6.ptr } ∧
      t.current .fourDigit = some 20 ∧ t.current .sixDigit = some 20

/-- R145, R188: once WTEXT has run with every byte delivered, the selected module shows the text: each position
the glyph of its character, or blank, and the entries beyond the module's positions whatever was staged; the
other chip, the brightness and the current limit are as before. That the environment's moves stand in a schedule
(log entry 6) and that an accepted byte is delivered in the same step (log entry 14) are the model's choices. -/
def Obligations.WtextShowsTheText : Prop :=
  ∀ (s : State) (w : CmdWord) (i : Inputs) (coming rest : List Inputs), s.Runs w i coming rest →
    coming.all Inputs.smooth = true → opField w = 2 →
    ∃ t, runSteps (1 + coming.length) s = .next t ∧
      (∀ (k : Nat) (h : k < 6), (t.chip (target (dcField w))).live[k] =
        if k < digitCount (dcField w) then
          (if k < (lenField w).toNat then rom s.cfg (charField w k) else 0x00)
        else (s.chip (target (dcField w))).stg[k]) ∧
      (t.chip (target (dcField w))).stg = (t.chip (target (dcField w))).live ∧
      (t.chip (target (dcField w))).pwm = (s.chip (target (dcField w))).pwm ∧
      (t.chip (target (dcField w))).light = (s.chip (target (dcField w))).light ∧
      (∀ u, u ≠ target (dcField w) → t.chip u = s.chip u)

/-- R150: once WRAND has run with every byte delivered, the selected module shows the leftmost digits of the
random value sampled at its acceptance. That the environment's moves stand in a schedule (log entry 6) and that an
accepted byte is delivered in the same step (log entry 14) are the model's choices. -/
def Obligations.WrandShowsTheLeadingDigits : Prop :=
  ∀ (s : State) (w : CmdWord) (i : Inputs) (coming rest : List Inputs), s.Runs w i coming rest →
    coming.all Inputs.smooth = true → opField w = 3 →
    ∃ t, runSteps (1 + coming.length) s = .next t ∧
      (∀ (k : Nat) (h : k < 6), (t.chip (target (dcField w))).live[k] =
        if k < digitCount (dcField w) then
          rom s.cfg (BitVec.ofNat 8 (0x30 + i.rngValue.toNat / 10 ^ (5 - k) % 10))
        else (s.chip (target (dcField w))).stg[k]) ∧
      (t.chip (target (dcField w))).stg = (t.chip (target (dcField w))).live ∧
      (t.chip (target (dcField w))).pwm = (s.chip (target (dcField w))).pwm ∧
      (t.chip (target (dcField w))).light = (s.chip (target (dcField w))).light ∧
      (∀ u, u ≠ target (dcField w) → t.chip u = s.chip u)

/-- R153, R214: once RSTDISP has run with every byte delivered, the selected chip's data, live display and
brightness are at its defaults and its current limit is 20 mA; the other chip received nothing. That the
environment's moves stand in a schedule (log entry 6) and that an accepted byte is delivered in the same step (log
entry 14) are the model's choices; that a chip needs no pause after its reset and that a
current write acts without a commit are the spec's decisions (R216, R190, log entry 23). -/
def Obligations.RstdispRestoresDefaultsAndLimit : Prop :=
  ∀ (s : State) (w : CmdWord) (i : Inputs) (coming rest : List Inputs), s.Runs w i coming rest →
    coming.all Inputs.smooth = true → opField w = 4 →
    ∃ t, runSteps (1 + coming.length) s = .next t ∧
      (∀ d, d = (if dcField w = 4 then s.cfg.defaults4 else s.cfg.defaults6) →
        t.chip (target (dcField w)) =
          { stg := d.stg, live := d.live, pwm := d.pwm, light := 0x0B, ptr := (t.chip (target (dcField w))).ptr }) ∧
      (∀ u, u ≠ target (dcField w) → t.chip u = s.chip u)

/-- R155, R189: once SETBRT has run with every byte delivered, the selected chip's brightness is the duty of the
clamped percent, and nothing else of either chip has changed but the pointer. That the environment's moves stand
in a schedule (log entry 6) and that an accepted byte is delivered in the same step (log entry 14) are the model's
choices; that a PWM write acts without a commit is the spec's decision (R189, log entry 23). -/
def Obligations.SetbrtSetsTheDuty : Prop :=
  ∀ (s : State) (w : CmdWord) (i : Inputs) (coming rest : List Inputs), s.Runs w i coming rest →
    coming.all Inputs.smooth = true → opField w = 5 →
    ∃ t, runSteps (1 + coming.length) s = .next t ∧
      t.chip (target (dcField w)) = { s.chip (target (dcField w)) with
        pwm := duty (pctField w).toInt, ptr := (t.chip (target (dcField w))).ptr } ∧
      (∀ u, u ≠ target (dcField w) → t.chip u = s.chip u)
end

