-- ==== Sys2Proof/Laws/Events.lean ====
section
/-! SUPPORT. The shape of the event lists (spec/41_sequencer_commands.md R121, R125, R130). -/
namespace Sys2Proof.Machine

@[simp] theorem txnEvents_length (a : BusAddr) (bs : List Byte) : (txnEvents a bs).length = bs.length + 2 := by
  simp [txnEvents]

/-- A staging transaction carries one byte per position, whatever the text's length is (R130). -/
theorem stagedBytes_length (cfg : Config) (n len : Nat) (cs : Vector Byte 6) :
    (stagedBytes cfg n len cs).length = min n 6 := by
  simp [stagedBytes]

theorem digitCount_four : digitCount 4 = 4 := rfl

theorem digitCount_other {dc : BitVec 8} (h : dc ≠ 4) : digitCount dc = 6 := by
  unfold digitCount target
  rw [if_neg h]
  rfl

end Sys2Proof.Machine
end

