-- ==== Sys2Proof/Laws/State.lean ====
section
/-! SUPPORT. One lemma per field per update of State and of Sequencer, all true by rfl. -/
namespace Sys2Proof.Machine

@[simp] theorem State.withSeq_cfg (s : State) (q : Sequencer) : (s.withSeq q).cfg = s.cfg := rfl
@[simp] theorem State.withSeq_seq (s : State) (q : Sequencer) : (s.withSeq q).seq = q := rfl
@[simp] theorem State.withSeq_inputs (s : State) (q : Sequencer) : (s.withSeq q).inputs = s.inputs := rfl
@[simp] theorem State.withSeq_schedule (s : State) (q : Sequencer) : (s.withSeq q).schedule = s.schedule := rfl
@[simp] theorem State.withSeq_txn (s : State) (q : Sequencer) : (s.withSeq q).txn = s.txn := rfl
@[simp] theorem State.withSeq_chip4 (s : State) (q : Sequencer) : (s.withSeq q).chip4 = s.chip4 := rfl
@[simp] theorem State.withSeq_chip6 (s : State) (q : Sequencer) : (s.withSeq q).chip6 = s.chip6 := rfl

@[simp] theorem State.withInputs_cfg (s : State) (i : Inputs) : (s.withInputs i).cfg = s.cfg := rfl
@[simp] theorem State.withInputs_seq (s : State) (i : Inputs) : (s.withInputs i).seq = s.seq := rfl
@[simp] theorem State.withInputs_inputs (s : State) (i : Inputs) : (s.withInputs i).inputs = i := rfl
@[simp] theorem State.withInputs_schedule (s : State) (i : Inputs) : (s.withInputs i).schedule = s.schedule := rfl
@[simp] theorem State.withInputs_txn (s : State) (i : Inputs) : (s.withInputs i).txn = s.txn := rfl
@[simp] theorem State.withInputs_chip4 (s : State) (i : Inputs) : (s.withInputs i).chip4 = s.chip4 := rfl
@[simp] theorem State.withInputs_chip6 (s : State) (i : Inputs) : (s.withInputs i).chip6 = s.chip6 := rfl

@[simp] theorem State.withSchedule_cfg (s : State) (l : List Inputs) : (s.withSchedule l).cfg = s.cfg := rfl
@[simp] theorem State.withSchedule_seq (s : State) (l : List Inputs) : (s.withSchedule l).seq = s.seq := rfl
@[simp] theorem State.withSchedule_inputs (s : State) (l : List Inputs) : (s.withSchedule l).inputs = s.inputs := rfl
@[simp] theorem State.withSchedule_schedule (s : State) (l : List Inputs) : (s.withSchedule l).schedule = l := rfl
@[simp] theorem State.withSchedule_txn (s : State) (l : List Inputs) : (s.withSchedule l).txn = s.txn := rfl
@[simp] theorem State.withSchedule_chip4 (s : State) (l : List Inputs) : (s.withSchedule l).chip4 = s.chip4 := rfl
@[simp] theorem State.withSchedule_chip6 (s : State) (l : List Inputs) : (s.withSchedule l).chip6 = s.chip6 := rfl

@[simp] theorem State.withTxn_cfg (s : State) (o : Option OpenTxn) : (s.withTxn o).cfg = s.cfg := rfl
@[simp] theorem State.withTxn_seq (s : State) (o : Option OpenTxn) : (s.withTxn o).seq = s.seq := rfl
@[simp] theorem State.withTxn_inputs (s : State) (o : Option OpenTxn) : (s.withTxn o).inputs = s.inputs := rfl
@[simp] theorem State.withTxn_schedule (s : State) (o : Option OpenTxn) : (s.withTxn o).schedule = s.schedule := rfl
@[simp] theorem State.withTxn_txn (s : State) (o : Option OpenTxn) : (s.withTxn o).txn = o := rfl
@[simp] theorem State.withTxn_chip4 (s : State) (o : Option OpenTxn) : (s.withTxn o).chip4 = s.chip4 := rfl
@[simp] theorem State.withTxn_chip6 (s : State) (o : Option OpenTxn) : (s.withTxn o).chip6 = s.chip6 := rfl

@[simp] theorem State.withChip4_cfg (s : State) (c : Chip) : (s.withChip4 c).cfg = s.cfg := rfl
@[simp] theorem State.withChip4_seq (s : State) (c : Chip) : (s.withChip4 c).seq = s.seq := rfl
@[simp] theorem State.withChip4_inputs (s : State) (c : Chip) : (s.withChip4 c).inputs = s.inputs := rfl
@[simp] theorem State.withChip4_schedule (s : State) (c : Chip) : (s.withChip4 c).schedule = s.schedule := rfl
@[simp] theorem State.withChip4_txn (s : State) (c : Chip) : (s.withChip4 c).txn = s.txn := rfl
@[simp] theorem State.withChip4_chip4 (s : State) (c : Chip) : (s.withChip4 c).chip4 = c := rfl
@[simp] theorem State.withChip4_chip6 (s : State) (c : Chip) : (s.withChip4 c).chip6 = s.chip6 := rfl

@[simp] theorem State.withChip6_cfg (s : State) (c : Chip) : (s.withChip6 c).cfg = s.cfg := rfl
@[simp] theorem State.withChip6_seq (s : State) (c : Chip) : (s.withChip6 c).seq = s.seq := rfl
@[simp] theorem State.withChip6_inputs (s : State) (c : Chip) : (s.withChip6 c).inputs = s.inputs := rfl
@[simp] theorem State.withChip6_schedule (s : State) (c : Chip) : (s.withChip6 c).schedule = s.schedule := rfl
@[simp] theorem State.withChip6_txn (s : State) (c : Chip) : (s.withChip6 c).txn = s.txn := rfl
@[simp] theorem State.withChip6_chip4 (s : State) (c : Chip) : (s.withChip6 c).chip4 = s.chip4 := rfl
@[simp] theorem State.withChip6_chip6 (s : State) (c : Chip) : (s.withChip6 c).chip6 = c := rfl

@[simp] theorem Sequencer.latch_active (q : Sequencer) (w : CmdWord) (r : RandomWord) : (q.latch w r).active = true := rfl
@[simp] theorem Sequencer.latch_cmd (q : Sequencer) (w : CmdWord) (r : RandomWord) : (q.latch w r).cmd = w := rfl
@[simp] theorem Sequencer.latch_rnd (q : Sequencer) (w : CmdWord) (r : RandomWord) : (q.latch w r).rnd = r := rfl
@[simp] theorem Sequencer.latch_upc (q : Sequencer) (w : CmdWord) (r : RandomWord) : (q.latch w r).upc = 0 := rfl
@[simp] theorem Sequencer.latch_initDone (q : Sequencer) (w : CmdWord) (r : RandomWord) : (q.latch w r).initDone = q.initDone := rfl
@[simp] theorem Sequencer.latch_errIllegal (q : Sequencer) (w : CmdWord) (r : RandomWord) : (q.latch w r).errIllegal = q.errIllegal := rfl
@[simp] theorem Sequencer.latch_errNoinit (q : Sequencer) (w : CmdWord) (r : RandomWord) : (q.latch w r).errNoinit = q.errNoinit := rfl
@[simp] theorem Sequencer.latch_errRng (q : Sequencer) (w : CmdWord) (r : RandomWord) : (q.latch w r).errRng = q.errRng := rfl

@[simp] theorem Sequencer.flag_active (q : Sequencer) (k : Rejection) : (q.flag k).active = q.active := by cases k <;> rfl
@[simp] theorem Sequencer.flag_cmd (q : Sequencer) (k : Rejection) : (q.flag k).cmd = q.cmd := by cases k <;> rfl
@[simp] theorem Sequencer.flag_rnd (q : Sequencer) (k : Rejection) : (q.flag k).rnd = q.rnd := by cases k <;> rfl
@[simp] theorem Sequencer.flag_upc (q : Sequencer) (k : Rejection) : (q.flag k).upc = q.upc := by cases k <;> rfl
@[simp] theorem Sequencer.flag_initDone (q : Sequencer) (k : Rejection) : (q.flag k).initDone = q.initDone := by cases k <;> rfl

@[simp] theorem State.blockReset_seq (s : State) : s.blockReset.seq = Sequencer.reset := rfl
@[simp] theorem State.blockReset_txn (s : State) : s.blockReset.txn = none := rfl
@[simp] theorem State.blockReset_cfg (s : State) : s.blockReset.cfg = s.cfg := rfl
@[simp] theorem State.blockReset_chip4 (s : State) : s.blockReset.chip4 = s.chip4 := rfl
@[simp] theorem State.blockReset_chip6 (s : State) : s.blockReset.chip6 = s.chip6 := rfl

end Sys2Proof.Machine
end

