-- ==== Sys2Proof/Laws/Ops.lean ====
section
/-! SUPPORT. One lemma per shared operation: everything it can do, for the proofs to cite. -/
namespace Sys2Proof.Machine

/-! ### Presenting, accepting, rejecting -/

theorem offer_ready {s : State} (h : s.cmdReady = true) (r : Result) : offer s r = r := by simp [offer, h]

theorem offer_busy {s : State} (h : s.cmdReady = false) (r : Result) : offer s r = .next s := by simp [offer, h]

theorem ifInitDone_open {s : State} (h : s.seq.initDone = true) (r : Result) : ifInitDone s r = r := by
  simp [ifInitDone, h]

theorem ifInitDone_closed {s : State} (h : s.seq.initDone = false) (r : Result) :
    ifInitDone s r = reject .noinit s := by simp [ifInitDone, h]

theorem ifRngInRange_in {s : State} (h : rngInRange s.inputs.rngValue = true) (r : Result) :
    ifRngInRange s r = r := by simp [ifRngInRange, h]

theorem ifRngInRange_out {s : State} (h : rngInRange s.inputs.rngValue = false) (r : Result) :
    ifRngInRange s r = reject .rng s := by simp [ifRngInRange, h]

/-- What any acceptance step leaves: the sequencer may have moved, nothing else has. -/
def OnlySeq (s : State) (r : Result) : Prop := ∃ q : Sequencer, r = .next (s.withSeq q)

theorem onlySeq_self (s : State) : OnlySeq s (.next s) := ⟨s.seq, rfl⟩

theorem onlySeq_reject (k : Rejection) (s : State) : OnlySeq s (reject k s) := ⟨_, rfl⟩

theorem onlySeq_accept (w : CmdWord) (r : RandomWord) (s : State) : OnlySeq s (accept w r s) := ⟨_, rfl⟩

theorem onlySeq_acceptInit (w : CmdWord) (s : State) : OnlySeq s (acceptInit w s) := ⟨_, rfl⟩

theorem onlySeq_offer {s : State} {r : Result} (h : OnlySeq s r) : OnlySeq s (offer s r) := by
  unfold offer
  split
  · exact h
  · exact onlySeq_self s

theorem onlySeq_ifInitDone {s : State} {r : Result} (h : OnlySeq s r) : OnlySeq s (ifInitDone s r) := by
  unfold ifInitDone
  split
  · exact h
  · exact onlySeq_reject _ s

theorem onlySeq_ifRngInRange {s : State} {r : Result} (h : OnlySeq s r) : OnlySeq s (ifRngInRange s r) := by
  unfold ifRngInRange
  split
  · exact h
  · exact onlySeq_reject _ s

/-! ### The two ports -/

/-- A lookup at the code that stands on the port changes nothing. -/
theorem lookup_self (s : State) : lookup s.inputs.encChar s = .next s := rfl

/-- An instruction of the command port moves the sequencer alone. -/
theorem exec_command_onlySeq (i : Instr) (s : State) (h : i.isCommandWord = true) : OnlySeq s (exec i s) := by
  cases i
  case init => exact onlySeq_offer (onlySeq_acceptInit _ s)
  case wtext => exact onlySeq_offer (onlySeq_ifInitDone (onlySeq_accept _ _ s))
  case wrand => exact onlySeq_offer (onlySeq_ifInitDone (onlySeq_ifRngInRange (onlySeq_accept _ _ s)))
  case rstdisp => exact onlySeq_offer (onlySeq_ifInitDone (onlySeq_accept _ _ s))
  case setbrt => exact onlySeq_offer (onlySeq_ifInitDone (onlySeq_accept _ _ s))
  all_goals first
    | exact onlySeq_offer (onlySeq_reject _ s)
    | exact absurd h Bool.false_ne_true

/-- Whatever command word stands on the port decodes to an instruction of the command port (R79). -/
theorem decodeCmd_isCommandWord (w : CmdWord) : (decodeCmd w).isCommandWord = true := by
  unfold decodeCmd
  split <;> rfl

/-! ### The chips and the bus master -/

theorem Chip.hear_deaf (d : ChipDefaults) (p : Bool) (b : Byte) (c : Chip) : c.hear false d p b = some c := rfl

theorem Chip.hear_first (d : ChipDefaults) (b : Byte) (c : Chip) :
    c.hear true d false b = some { c with ptr := b } := rfl

theorem Chip.hear_data (d : ChipDefaults) (b : Byte) (c : Chip) : c.hear true d true b = c.writeData d b := rfl

/-- A data byte answers a chip whose pointer has moved on by one. -/
theorem Chip.writeData_ptr {d : ChipDefaults} {b : Byte} {c c' : Chip} (h : c.writeData d b = some c') :
    c'.ptr = c.ptr + 1 := by
  unfold Chip.writeData at h
  cases hw : c.writeReg d c.ptr b with
  | none => simp [hw] at h
  | some x =>
    simp only [hw, Option.map_some, Option.some.injEq] at h
    rw [← h]

/-- Carrying an event moves the transaction and the chips alone. -/
theorem carry_frame {e : Event} {s t : State} (h : carry e s = .next t) :
    t.cfg = s.cfg ∧ t.seq = s.seq ∧ t.inputs = s.inputs ∧ t.schedule = s.schedule := by
  cases e with
  | start a => simp only [carry, Host.Outcome.next.injEq] at h; subst h; exact ⟨rfl, rfl, rfl, rfl⟩
  | stop => simp only [carry, Host.Outcome.next.injEq] at h; subst h; exact ⟨rfl, rfl, rfl, rfl⟩
  | byte b =>
    simp only [carry] at h
    split at h
    · unfold carryByte at h
      split at h
      · simp only [Host.Outcome.next.injEq] at h; subst h; exact ⟨rfl, rfl, rfl, rfl⟩
      · cases h
    · cases h

/-- An emission step: the presented event is carried, then `S.upc` moves. -/
theorem emit_next {s t : State} (h : emit s = .next t) :
    ∃ e u, s.presented = some e ∧ carry e s = .next u ∧ t = u.advance := by
  unfold emit at h
  split at h
  · cases h
  · next e he =>
    cases hc : carry e s with
    | next u =>
      simp only [hc, Host.Outcome.next.injEq] at h
      exact ⟨e, u, he, hc, h.symm⟩
    | fault f => simp [hc] at h
    | refused r => simp [hc] at h

/-! ### The sequencer's step -/

/-- Everything the sequencer's step can do: a block reset, an emission of the presented event, a move of the
sequencer alone (an acceptance or a rejection), or nothing. -/
theorem sequencerPhase_next {s t : State} (h : sequencerPhase s = .next t) :
    (s.inputs.rst = true ∧ t = s.blockReset) ∨
    (s.inputs.rst = false ∧ s.seq.active = true ∧ s.inputs.evReady = true ∧
      ∃ e u, s.presented = some e ∧ carry e s = .next u ∧ t = u.advance) ∨
    (s.inputs.rst = false ∧ s.seq.active = false ∧ s.inputs.cmdValid = true ∧ ∃ q, t = s.withSeq q) ∨
    (s.inputs.rst = false ∧ t = s) := by
  unfold sequencerPhase at h
  split at h
  · next hr => exact .inl ⟨hr, (Host.Outcome.next.inj h).symm⟩
  next hr =>
  have hr' : s.inputs.rst = false := by simpa using hr
  split at h
  · next ha =>
    split at h
    · next he => exact .inr (.inl ⟨hr', ha, he, emit_next h⟩)
    · exact .inr (.inr (.inr ⟨hr', (Host.Outcome.next.inj h).symm⟩))
  next ha =>
  have ha' : s.seq.active = false := by simpa using ha
  split at h
  · next hv =>
    obtain ⟨q, hq⟩ := exec_command_onlySeq _ s (decodeCmd_isCommandWord s.inputs.cmdWord)
    exact .inr (.inr (.inl ⟨hr', ha', hv, q, Host.Outcome.next.inj (h.symm.trans hq)⟩))
  · exact .inr (.inr (.inr ⟨hr', (Host.Outcome.next.inj h).symm⟩))

/-! ### The environment's move -/

theorem State.powerCycle4_frame (s : State) :
    s.powerCycle4.cfg = s.cfg ∧ s.powerCycle4.seq = s.seq ∧ s.powerCycle4.inputs = s.inputs ∧
      s.powerCycle4.schedule = s.schedule ∧ s.powerCycle4.chip6 = s.chip6 := by
  unfold State.powerCycle4
  split <;> exact ⟨rfl, rfl, rfl, rfl, rfl⟩

theorem State.powerCycle6_frame (s : State) :
    s.powerCycle6.cfg = s.cfg ∧ s.powerCycle6.seq = s.seq ∧ s.powerCycle6.inputs = s.inputs ∧
      s.powerCycle6.schedule = s.schedule ∧ s.powerCycle6.chip4 = s.chip4 := by
  unfold State.powerCycle6
  split <;> exact ⟨rfl, rfl, rfl, rfl, rfl⟩

theorem State.nextInputs_frame (s : State) :
    s.nextInputs.cfg = s.cfg ∧ s.nextInputs.seq = s.seq ∧ s.nextInputs.txn = s.txn ∧
      s.nextInputs.chip4 = s.chip4 ∧ s.nextInputs.chip6 = s.chip6 := by
  unfold State.nextInputs
  split <;> exact ⟨rfl, rfl, rfl, rfl, rfl⟩

/-- The environment's move leaves the straps and the sequencer alone. -/
theorem State.sample_frame (s : State) : s.sample.cfg = s.cfg ∧ s.sample.seq = s.seq := by
  have h1 := s.nextInputs_frame
  have h2 := s.nextInputs.powerCycle4_frame
  have h3 := s.nextInputs.powerCycle4.powerCycle6_frame
  exact ⟨h3.1.trans (h2.1.trans h1.1), h3.2.1.trans (h2.2.1.trans h1.2.1)⟩

/-- A power cycle at the step's beginning: the chip is at its defaults. -/
theorem State.powerCycle4_chip4 (s : State) :
    s.powerCycle4.chip4 = if s.inputs.cycle4 then Chip.powerOn s.cfg.defaults4 else s.chip4 := by
  unfold State.powerCycle4
  split <;> rfl

theorem State.powerCycle6_chip6 (s : State) :
    s.powerCycle6.chip6 = if s.inputs.cycle6 then Chip.powerOn s.cfg.defaults6 else s.chip6 := by
  unfold State.powerCycle6
  split <;> rfl

/-- The open transaction after a power cycle: cut off if it was addressed to the chip. -/
theorem State.powerCycle4_txn (s : State) :
    s.powerCycle4.txn = if s.inputs.cycle4 then s.txn.map (cutAt s.cfg.addr4) else s.txn := by
  unfold State.powerCycle4
  split <;> rfl

theorem State.powerCycle6_txn (s : State) :
    s.powerCycle6.txn = if s.inputs.cycle6 then s.txn.map (cutAt s.cfg.addr6) else s.txn := by
  unfold State.powerCycle6
  split <;> rfl

end Sys2Proof.Machine
end

