-- ==== Sys2Proof/Laws/PerInstr.lean ====
section
/-! SUPPORT. One lemma per instruction: what it puts on its port matches its row of spec/opcode_table.json,
the row's fixed bits and no others. -/
namespace Sys2Proof.Laws.TableRow

/-- The low four bits of a command's word are its row's OP; a lookup's code is its row's. -/
def Statement : Instr → Prop
  | .init ign => ∃ w, (Instr.init ign).encoded = .word w ∧ opField w = 0x1
  | .wtext dc len c0 c1 c2 c3 c4 c5 =>
      ∃ w, (Instr.wtext dc len c0 c1 c2 c3 c4 c5).encoded = .word w ∧ opField w = 0x2
  | .wrand dc ign => ∃ w, (Instr.wrand dc ign).encoded = .word w ∧ opField w = 0x3
  | .rstdisp dc ign => ∃ w, (Instr.rstdisp dc ign).encoded = .word w ∧ opField w = 0x4
  | .setbrt dc lo pct hi => ∃ w, (Instr.setbrt dc lo pct hi).encoded = .word w ∧ opField w = 0x5
  | .illegal0 rest => ∃ w, (Instr.illegal0 rest).encoded = .word w ∧ opField w = 0x0
  | .illegal6 rest => ∃ w, (Instr.illegal6 rest).encoded = .word w ∧ opField w = 0x6
  | .illegal7 rest => ∃ w, (Instr.illegal7 rest).encoded = .word w ∧ opField w = 0x7
  | .illegal8 rest => ∃ w, (Instr.illegal8 rest).encoded = .word w ∧ opField w = 0x8
  | .illegal9 rest => ∃ w, (Instr.illegal9 rest).encoded = .word w ∧ opField w = 0x9
  | .illegalA rest => ∃ w, (Instr.illegalA rest).encoded = .word w ∧ opField w = 0xA
  | .illegalB rest => ∃ w, (Instr.illegalB rest).encoded = .word w ∧ opField w = 0xB
  | .illegalC rest => ∃ w, (Instr.illegalC rest).encoded = .word w ∧ opField w = 0xC
  | .illegalD rest => ∃ w, (Instr.illegalD rest).encoded = .word w ∧ opField w = 0xD
  | .illegalE rest => ∃ w, (Instr.illegalE rest).encoded = .word w ∧ opField w = 0xE
  | .illegalF rest => ∃ w, (Instr.illegalF rest).encoded = .word w ∧ opField w = 0xF
  | .glyph0 => Instr.glyph0.encoded = .code 0x30
  | .glyph1 => Instr.glyph1.encoded = .code 0x31
  | .glyph2 => Instr.glyph2.encoded = .code 0x32
  | .glyph3 => Instr.glyph3.encoded = .code 0x33
  | .glyph4 => Instr.glyph4.encoded = .code 0x34
  | .glyph5 => Instr.glyph5.encoded = .code 0x35
  | .glyph6 => Instr.glyph6.encoded = .code 0x36
  | .glyph7 => Instr.glyph7.encoded = .code 0x37
  | .glyph8 => Instr.glyph8.encoded = .code 0x38
  | .glyph9 => Instr.glyph9.encoded = .code 0x39
  | .glyphBlank c => (Instr.glyphBlank c).encoded = .code c

/-- The opcode is the low end of the word, whatever stands above it (R70): every format has this form. -/
theorem opField_wordOp (op : BitVec 4) (rest : BitVec 60) : opField (wordOp op rest) = op := by
  apply BitVec.eq_of_getLsbD_eq
  intro i hi
  have h : (wordOp op rest).getLsbD i = if i < 4 then op.getLsbD i else rest.getLsbD (i - 4) :=
    BitVec.getLsbD_append
  simp [opField, h, hi]

theorem opField_wordD (op : BitVec 4) (dc : BitVec 8) (ign : BitVec 52) : opField (wordD op dc ign) = op :=
  opField_wordOp op (ign ++ dc)

theorem opField_wordB (op : BitVec 4) (dc : BitVec 8) (lo : BitVec 4) (pct : BitVec 16) (hi : BitVec 32) :
    opField (wordB op dc lo pct hi) = op :=
  opField_wordOp op (hi ++ pct ++ lo ++ dc)

theorem opField_wordT (op : BitVec 4) (dc : BitVec 8) (len : BitVec 4) (c0 c1 c2 c3 c4 c5 : Byte) :
    opField (wordT op dc len c0 c1 c2 c3 c4 c5) = op :=
  opField_wordOp op (c5 ++ c4 ++ c3 ++ c2 ++ c1 ++ c0 ++ len ++ dc)

theorem init (ign : BitVec 60) : Statement (.init ign) := ⟨_, rfl, opField_wordOp _ _⟩
theorem wtext (dc : BitVec 8) (len : BitVec 4) (c0 c1 c2 c3 c4 c5 : Byte) :
    Statement (.wtext dc len c0 c1 c2 c3 c4 c5) := ⟨_, rfl, opField_wordT _ _ _ _ _ _ _ _ _⟩
theorem wrand (dc : BitVec 8) (ign : BitVec 52) : Statement (.wrand dc ign) := ⟨_, rfl, opField_wordD _ _ _⟩
theorem rstdisp (dc : BitVec 8) (ign : BitVec 52) : Statement (.rstdisp dc ign) := ⟨_, rfl, opField_wordD _ _ _⟩
theorem setbrt (dc : BitVec 8) (lo : BitVec 4) (pct : BitVec 16) (hi : BitVec 32) :
    Statement (.setbrt dc lo pct hi) := ⟨_, rfl, opField_wordB _ _ _ _ _⟩
theorem illegal0 (rest : BitVec 60) : Statement (.illegal0 rest) := ⟨_, rfl, opField_wordOp _ _⟩
theorem illegal6 (rest : BitVec 60) : Statement (.illegal6 rest) := ⟨_, rfl, opField_wordOp _ _⟩
theorem illegal7 (rest : BitVec 60) : Statement (.illegal7 rest) := ⟨_, rfl, opField_wordOp _ _⟩
theorem illegal8 (rest : BitVec 60) : Statement (.illegal8 rest) := ⟨_, rfl, opField_wordOp _ _⟩
theorem illegal9 (rest : BitVec 60) : Statement (.illegal9 rest) := ⟨_, rfl, opField_wordOp _ _⟩
theorem illegalA (rest : BitVec 60) : Statement (.illegalA rest) := ⟨_, rfl, opField_wordOp _ _⟩
theorem illegalB (rest : BitVec 60) : Statement (.illegalB rest) := ⟨_, rfl, opField_wordOp _ _⟩
theorem illegalC (rest : BitVec 60) : Statement (.illegalC rest) := ⟨_, rfl, opField_wordOp _ _⟩
theorem illegalD (rest : BitVec 60) : Statement (.illegalD rest) := ⟨_, rfl, opField_wordOp _ _⟩
theorem illegalE (rest : BitVec 60) : Statement (.illegalE rest) := ⟨_, rfl, opField_wordOp _ _⟩
theorem illegalF (rest : BitVec 60) : Statement (.illegalF rest) := ⟨_, rfl, opField_wordOp _ _⟩
theorem glyph0 : Statement .glyph0 := rfl
theorem glyph1 : Statement .glyph1 := rfl
theorem glyph2 : Statement .glyph2 := rfl
theorem glyph3 : Statement .glyph3 := rfl
theorem glyph4 : Statement .glyph4 := rfl
theorem glyph5 : Statement .glyph5 := rfl
theorem glyph6 : Statement .glyph6 := rfl
theorem glyph7 : Statement .glyph7 := rfl
theorem glyph8 : Statement .glyph8 := rfl
theorem glyph9 : Statement .glyph9 := rfl
theorem glyphBlank (code : Byte) : Statement (.glyphBlank code) := rfl

end Sys2Proof.Laws.TableRow
end

