-- ==== Sys2Proof/Tests/Slice0.lean ====
section
/-! SUPPORT. Tests of single steps and single definitions, with expected results from the spec's own vectors
(spec/30_encoding.md R85, spec/95_test_vectors.md), and a witness for every statement that has hypotheses. -/
namespace Sys2Proof.Tests
open Sys2Proof.Machine

/-! ### A concrete build and its states -/

/-- Defaults unlike any value the block sends, so that a test can tell them apart. -/
def dft : ChipDefaults :=
  { stg := Vector.replicate 6 0xA5, live := Vector.replicate 6 0x5A, pwm := 0x33, light := 0x0F, ptr := 0x42,
    milliamps := 25 }

def cfg : Config :=
  { addr4 := 0x70, addr6 := 0x71, commitPayload := 0x00, resetPayload := 0x00,
    glyphs2to8 := Config.standardGlyphs, defaults4 := dft, defaults6 := dft,
    digitMap4 := #v[0, 1, 2, 3], digitMap6 := #v[0, 1, 2, 3, 4, 5] }

/-- Idle, right after reset. -/
def fresh : State := State.resetOf cfg

/-- Idle and initialized. -/
def ready : State := fresh.withSeq { Sequencer.reset with initDone := true }

/-- At event `upc` of the command `w`, with the open transaction `o`. -/
def running (w : CmdWord) (upc : BitVec 4) (o : Option OpenTxn) : State :=
  (ready.withSeq { Sequencer.reset with active := true, cmd := w, upc := upc, initDone := true }).withTxn o

def quiet : Inputs := Inputs.reset
def present (w : CmdWord) : Inputs := { quiet with cmdValid := true, cmdWord := w }
def presentRng (w : CmdWord) (r : RandomWord) : Inputs := { present w with rngValue := r }

/-- A view of the next state, if there is one. -/
def view {α : Type} (f : State → α) : Result → Option α
  | .next s => some (f s)
  | .fault _ => none
  | .refused _ => none

def stepWith (s : State) (i : Inputs) : Result := step (s.withSchedule [i])

/-! ### Well-formedness: an ill-formed term for the one check -/

theorem test_blank_lookup_of_a_digit_is_ill_formed : (Instr.glyphBlank 0x30).wellFormed = false := by decide
theorem test_blank_lookup_of_last_digit_is_ill_formed : (Instr.glyphBlank 0x39).wellFormed = false := by decide

/-! ### Decoding: words written out from the format tables, and the neighbours R81 names -/

theorem test_decode_init_ignores_upper_bits : decodeCmd 0xFFFFFFFFFFFFFFF1 = .init 0xFFFFFFFFFFFFFFF := by decide
theorem test_decode_wtext : decodeCmd 0x3534333231306062 = .wtext 6 6 0x30 0x31 0x32 0x33 0x34 0x35 := by decide
theorem test_decode_wtext_dc_255 : decodeCmd 0x0000000000391FF2 = .wtext 255 1 0x39 0 0 0 0 0 := by decide
theorem test_decode_wrand : decodeCmd 0x0000000000000043 = .wrand 4 0 := by decide
theorem test_decode_rstdisp : decodeCmd 0xFFFFFFFFFFFF0044 = .rstdisp 4 0xFFFFFFFFFFFF0 := by decide
theorem test_decode_setbrt : decodeCmd 0xFFFFFFFF00320045 = .setbrt 4 0 50 0xFFFFFFFF := by decide
theorem test_decode_setbrt_negative : decodeCmd 0x00000000FFFB0065 = .setbrt 6 0 0xFFFB 0 := by decide
theorem test_decode_illegal : decodeCmd 0 = .illegal0 0 ∧ decodeCmd 6 = .illegal6 0 ∧ decodeCmd 7 = .illegal7 0 ∧
    decodeCmd 8 = .illegal8 0 ∧ decodeCmd 9 = .illegal9 0 ∧ decodeCmd 10 = .illegalA 0 ∧ decodeCmd 11 = .illegalB 0 ∧
    decodeCmd 12 = .illegalC 0 ∧ decodeCmd 13 = .illegalD 0 ∧ decodeCmd 14 = .illegalE 0 ∧
    decodeCmd 15 = .illegalF 0 := by decide
theorem test_decode_glyphs : [0x30, 0x31, 0x32, 0x33, 0x34, 0x35, 0x36, 0x37, 0x38, 0x39].map decodeLut =
    [.glyph0, .glyph1, .glyph2, .glyph3, .glyph4, .glyph5, .glyph6, .glyph7, .glyph8, .glyph9] := by decide
theorem test_decode_blank_neighbours : decodeLut 0x2F = .glyphBlank 0x2F ∧ decodeLut 0x3A = .glyphBlank 0x3A ∧
    decodeLut 0xB0 = .glyphBlank 0xB0 := by decide
theorem test_decode_refuses_other_lengths : decode [] = .badLength 0 ∧ decode [1, 0] = .badLength 2 := by decide
theorem test_table_word_command : decodeTableWord 8 0x5 = some (.setbrt 0 0 0 0) ∧
    decodeTableWord 64 0x44 = some (.rstdisp 4 0) := by decide
theorem test_table_word_lookup : decodeTableWord 8 0x30 = some .glyph0 ∧
    decodeTableWord 8 0xFF = some (.glyphBlank 0xFF) := by decide

/-! ### The assembler (30_encoding.md R82 to R85) -/

theorem test_assemble_wtext : assembleLine ['w', 't', 'e', 'x', 't', ' ', '4', ',', '"', 'A', '\\', 'x', '4', '2', '"'] =
    some 0x0000000042412042 := by decide
theorem test_assemble_setbrt : assembleLine ['S', 'E', 'T', 'B', 'R', 'T', ' ', '0', 'x', '6', ',', ' ', '-', '5'] =
    some 0x00000000FFFB0065 := by decide
theorem test_assemble_refuses : assemble (.wrand 256) = none ∧ assemble (.setbrt 4 32768) = none ∧
    assemble (.wtext 4 (List.replicate 7 0x31)) = none := by decide
theorem test_disassemble : disassemble 0x0000343332314042 = .wtext 4 [0x31, 0x32, 0x33, 0x34] ∧
    disassemble 0x383838383838F042 = .dword 0x383838383838F042 ∧ disassemble 0xFFFFFFFF00320045 =
    .dword 0xFFFFFFFF00320045 ∧ disassemble 0x6 = .dword 0x6 := by decide
theorem test_spell : (disassemble 0x00000000FFFB0065).spell = ['S', 'E', 'T', 'B', 'R', 'T', ' ', '6', ',', ' ', '-', '5'] ∧
    readLine (disassemble 0x00003A2FFF004042).spell = some (disassemble 0x00003A2FFF004042) := by decide

/-! ### Operands (95_test_vectors.md sections 2.1 to 2.4) -/

theorem test_rom : [0x30, 0x31, 0x32, 0x33, 0x34, 0x35, 0x36, 0x37, 0x38, 0x39].map (rom cfg) =
    [0x3F, 0x06, 0x5B, 0x4F, 0x66, 0x6D, 0x7D, 0x07, 0x7F, 0x6F] := by decide
theorem test_rom_blanks : [0x00, 0x20, 0x2F, 0x3A, 0x41, 0x61, 0x62, 0x42, 0x80, 0xB0, 0xFF].map (rom cfg) =
    List.replicate 11 0x00 := by decide
theorem test_duty : [0, 1, 2, 9, 50, 78, 79, 87, 99, 100].map duty =
    [0x00, 0x01, 0x03, 0x0C, 0x40, 0x64, 0x65, 0x6F, 0x7F, 0x80] := by decide
theorem test_duty_clamps : [-32768, -5, -1, 101, 250, 32767].map duty = [0x00, 0x00, 0x00, 0x80, 0x80, 0x80] := by
  decide
theorem test_decimal : decimal 271828 = #v[0x32, 0x37, 0x31, 0x38, 0x32, 0x38] := by decide
theorem test_target : [0, 3, 4, 5, 6, 0x84, 255].map target =
    [.sixDigit, .sixDigit, .fourDigit, .sixDigit, .sixDigit, .sixDigit, .sixDigit] := by decide

/-! ### Event lists (95_test_vectors.md section 2.5) -/

theorem test_events_init : events cfg (decodeCmd 0x1) 0 =
    [.start 0x70, .byte 0x0D, .byte 0x0B, .stop, .start 0x71, .byte 0x0D, .byte 0x0B, .stop] := by decide
theorem test_events_wtext : events cfg (decodeCmd 0x0000000030392062) 0 =
    [.start 0x71, .byte 0x01, .byte 0x6F, .byte 0x3F, .byte 0, .byte 0, .byte 0, .byte 0, .stop,
     .start 0x71, .byte 0x0C, .byte 0x00, .stop] := by decide
theorem test_events_wrand : events cfg (decodeCmd 0x43) 123456 =
    [.start 0x70, .byte 0x01, .byte 0x06, .byte 0x5B, .byte 0x4F, .byte 0x66, .stop,
     .start 0x70, .byte 0x0C, .byte 0x00, .stop] := by decide
theorem test_events_rstdisp : events cfg (decodeCmd 0x74) 0 =
    [.start 0x71, .byte 0xFF, .byte 0x00, .stop, .start 0x71, .byte 0x0D, .byte 0x0B, .stop] := by decide
theorem test_events_setbrt : events cfg (decodeCmd 0x00000000FFFB0065) 0 =
    [.start 0x71, .byte 0x19, .byte 0x00, .stop] := by decide

/-! ### Single steps (95_test_vectors.md sections 2.6 and 2.7) -/

theorem test_step_init_opens_the_bus : view State.status (stepWith fresh (present 0x1)) = some 0x03 := by decide
theorem test_step_setbrt_latches : view (fun s => (s.status, s.seq.cmd, s.seq.upc))
    (stepWith ready (present 0x320045)) = some (0x03, 0x320045, 0) := by decide
theorem test_step_wrand_latches_random : view (fun s => (s.status, s.seq.rnd))
    (stepWith ready (presentRng 0x63 100000)) = some (0x03, 100000) := by decide
theorem test_step_wtext_before_init : view State.status (stepWith fresh (present 0x32312042)) = some 0x08 := by decide
theorem test_step_rstdisp_before_init : view State.status (stepWith fresh (present 0x44)) = some 0x08 := by decide
theorem test_step_illegal : view State.status (stepWith fresh (present 0xF)) = some 0x04 := by decide
theorem test_step_wrand_noinit_before_rng : view State.status (stepWith fresh (presentRng 0x43 999999)) = some 0x08 := by
  decide
theorem test_step_wrand_out_of_range : view (fun s => (s.status, s.seq.rnd))
    (stepWith ready (presentRng 0x43 999999)) = some (0x12, 0) := by decide
theorem test_step_emits_start : view (fun s => (s.status, s.seq.upc, s.txn.map (·.addr)))
    (stepWith (running 0x320045 0 none) quiet) = some (0x23, 1, some 0x70) := by decide
theorem test_step_holds : view (fun s => (s.status, s.seq.upc))
    (stepWith (running 0x320045 0 none) { quiet with evReady := false }) = some (0x03, 0) := by decide
theorem test_step_emits_duty : view (fun s => s.chip4.pwm)
    (stepWith ((running 0x320045 2 (some ⟨0x70, true, false⟩)).withChip4
      { Chip.powerOn dft with ptr := 0x19 }) quiet) = some 0x40 := by decide
theorem test_step_drops_duty : view (fun s => (s.chip4.pwm, s.txn))
    (stepWith ((running 0x320045 2 (some ⟨0x70, true, false⟩)).withChip4
      { Chip.powerOn dft with ptr := 0x19 }) { quiet with deliver := false }) =
      some (0x33, some ⟨0x70, true, true⟩) := by decide
theorem test_step_emits_last_stop : view (fun s => (s.status, s.seq.upc))
    (stepWith (running 0x320045 3 (some ⟨0x70, true, false⟩)) quiet) = some (0x02, 0) := by decide
theorem test_step_reset_wins : view (fun s => (s.status, s.seq, s.txn))
    (stepWith (running 0x320045 2 (some ⟨0x70, true, false⟩)) { present 0x1 with rst := true }) =
      some (0x00, Sequencer.reset, none) := by decide
theorem test_step_lookup : view State.encSeg (step (fresh.withFetchWord 8 0x32)) = some 0x5B := by decide
theorem test_step_lookup_in_reset : view State.encSeg
    (stepWith fresh { quiet with rst := true, encChar := 0x39 }) = some 0x6F := by decide
theorem test_shown : (ready.withChip4 { Chip.powerOn dft with live := #v[0x06, 0x5B, 0x4F, 0x66, 0, 0] }).shown .fourDigit =
    { lit := [(0, 0x06), (1, 0x5B), (2, 0x4F), (3, 0x66)], pwm := 0x33, light := 0x0F } := by decide

/-! ### Witnesses: states and operands that meet each statement's hypotheses -/

/-- The smooth environment in which a command runs: the word, then as many accepting steps as it has events. -/
def planned (s : State) (w : CmdWord) (r : RandomWord) (n : Nat) : State :=
  s.withSchedule (presentRng w r :: (List.replicate n quiet ++ []))

theorem cfg_currents (u : DisplayTarget) : aboveLimit (cfg.defaults u) = true := by cases u <;> decide

theorem ready_inv : ready.Inv := ⟨by decide, cfg_currents, by decide, by decide⟩
theorem fresh_inv : fresh.Inv := ⟨by decide, cfg_currents, by decide, by decide⟩

/-- Mid-transaction: WTEXT to the four-digit module, three data bytes sent. -/
def midText : State :=
  (running 0x0000343332314042 5 (some ⟨0x70, true, false⟩)).withChip4 { Chip.powerOn dft with ptr := 0x04 }

theorem midText_inv : midText.Inv := ⟨by decide, cfg_currents, by decide, by decide⟩

/-- Mid-transaction at the last but one event, the commit byte. -/
def midCommit : State :=
  (running 0x0000343332314042 9 (some ⟨0x70, true, false⟩)).withChip4
    { Chip.powerOn dft with ptr := 0x0C, stg := #v[0x06, 0x5B, 0x4F, 0x66, 0xA5, 0xA5] }

theorem witness_DecodeOfEncode : (Instr.glyphBlank 0x2F).wellFormed = true ∧
    (Instr.glyphBlank 0x3A).wellFormed = true ∧ (Instr.setbrt 4 0 0xFFFB 0).wellFormed = true := by decide
theorem witness_OpcodeAloneSelectsCommand : [0x0, 0x1, 0x2, 0x3, 0x4, 0x5, 0x6, 0xF].map opField =
    [0, 1, 2, 3, 4, 5, 6, 15] := by decide
theorem witness_DisassemblyPrintsItsOperands : disassemble 0x42412042 ≠ .dword 0x42412042 ∧ opField 0x42412042 = 2 ∧
    disassemble 0x1 ≠ .dword 0x1 ∧ disassemble 0x43 ≠ .dword 0x43 ∧ disassemble 0x44 ≠ .dword 0x44 ∧
    disassemble 0x320045 ≠ .dword 0x320045 := by decide
theorem witness_AssemblerEncodesEachLine : assemble (.wtext 255 [0x39, 0x30, 0, 1, 2, 3]) = some 0x0302010030396FF2 ∧
    assemble (.setbrt 255 (-32768)) = some 0x80000FF5 ∧ assemble (.setbrt 255 32767) = some 0x7FFF0FF5 ∧
    assemble (.setbrt 256 0) = none ∧ assemble (.setbrt 4 (-32769)) = none := by decide
theorem test_read_refuses_bare_backslash : readLine ['W', 'T', 'E', 'X', 'T', ' ', '4', ',', '"', '\\', 'A', '"'] = none := by
  decide
theorem test_read_blanks : readLine [' ', 'W', 'R', 'A', 'N', 'D', ' ', ' ', '4', ' '] = some (.wrand 4) ∧
    readLine ['W', 'R', 'A', 'N', 'D', '\t', '4'] = none ∧ readLine ['W', 'R', 'A', 'N', 'D', '4'] = none := by decide
theorem witness_RomHoldsTheGlyphTable : cfg.glyphs2to8 = Config.standardGlyphs ∧
    ¬ ((0x30 : Byte) ≤ 0x2F ∧ (0x2F : Byte) ≤ 0x39) ∧ ¬ ((0x30 : Byte) ≤ 0x3A ∧ (0x3A : Byte) ≤ 0x39) := by decide
theorem witness_GlyphRomProperties : cfg.glyphs2to8 = Config.standardGlyphs ∧ (0x30 : Byte) ≤ 0x30 ∧
    (0x39 : Byte) ≤ 0x39 := by decide
theorem witness_LookupsShowTheirGlyphs : ready.cfg.glyphs2to8 = Config.standardGlyphs ∧
    (Instr.glyphBlank 0x00).wellFormed = true ∧ (Instr.glyphBlank 0xFF).wellFormed = true := by decide
theorem witness_DigitCountNormalization : (4 : BitVec 8) = 4 ∧ (3 : BitVec 8) ≠ 4 ∧ (5 : BitVec 8) ≠ 4 := by decide
theorem witness_DutyIsNearestAndClamped : (0 : Int) ≤ 0 ∧ (100 : Int) ≤ 100 ∧ duty 100 = 0x80 ∧ duty 99 ≠ 0x80 := by
  decide
theorem witness_DecimalDigitsOfRandom : (100000 : RandomWord).toNat = 100000 ∧
    (999998 : RandomWord).toNat = 999998 := by decide
theorem witness_WrandStagesDigitsOnly : rngInRange 100000 = true ∧ rngInRange 999998 = true := by decide
theorem witness_EventListsOfCommands : opField 0x1 = 1 ∧ opField 0x2 = 2 ∧ opField 0x3 = 3 ∧ opField 0x4 = 4 ∧
    opField 0x5 = 5 ∧ opField 0x0 = 0 ∧ 6 ≤ opField 0x6 ∧ 6 ≤ opField 0xF := by decide
theorem witness_StagingIsAlwaysFull : 3 < digitCount 4 ∧ ¬ 4 < digitCount 4 ∧ 5 < digitCount 6 := by decide
theorem witness_InitIsAccepted : fresh.cmdReady = true := by decide
theorem witness_TextResetAndBrightnessAreAccepted : ready.cmdReady = true ∧ ready.seq.initDone = true := by decide
theorem witness_WrandIsAcceptedInRange :
    (ready.withInputs (presentRng 0x43 100000)).cmdReady = true ∧
    (ready.withInputs (presentRng 0x43 100000)).seq.initDone = true ∧
    100000 ≤ (ready.withInputs (presentRng 0x43 100000)).inputs.rngValue.toNat ∧
    (ready.withInputs (presentRng 0x43 999998)).inputs.rngValue.toNat ≤ 999998 := by decide
theorem witness_IllegalOpcodesAreRejected : (Instr.illegal0 0).isIllegal = true ∧
    (Instr.illegalF 0).isIllegal = true ∧ fresh.cmdReady = true := by decide
theorem witness_CommandsBeforeInitAreRejected : (Instr.setbrt 4 0 0 0).needsInit = true ∧
    (Instr.wrand 4 0).needsInit = true ∧ fresh.cmdReady = true ∧ fresh.seq.initDone = false ∧
    view (fun t => t.seq.errNoinit) (exec (.init 0) fresh) = some false := by decide
theorem witness_RandomOutOfRangeIsRejected :
    (ready.withInputs (presentRng 0x43 999999)).cmdReady = true ∧
    (ready.withInputs (presentRng 0x43 999999)).seq.initDone = true ∧
    ¬ (100000 ≤ (ready.withInputs (presentRng 0x43 999999)).inputs.rngValue.toNat ∧
       (ready.withInputs (presentRng 0x43 999999)).inputs.rngValue.toNat ≤ 999998) ∧
    ¬ (100000 ≤ (99999 : RandomWord).toNat) := by decide
theorem witness_BusyBlockTakesNoCommand : (Instr.init 0).isCommandWord = true ∧ midText.cmdReady = false := by decide
theorem witness_AcceptanceStep : (ready.withInputs (present 0x62)).inputs.rst = false ∧
    (ready.withInputs (present 0x62)).seq.active = false ∧ (ready.withInputs (present 0x62)).inputs.cmdValid = true := by
  decide
theorem witness_StepRunsThePresentedCommand : (ready.presentWord 0x44).sample.inputs.rst = false ∧
    (ready.presentWord 0x44).sample.seq.active = false ∧ (ready.presentWord 0x44).sample.inputs.cmdValid = true ∧
    decode (wordBytes (ready.presentWord 0x44).sample.inputs.cmdWord) = .instr (.rstdisp 4 0) := by decide
theorem witness_StepRunsTheLookup : ∃ t, step (ready.presentCode 0x38) = .next t ∧ t.encSeg = 0x7F :=
  ⟨_, rfl, by decide⟩
theorem witness_EmissionStep : midText.Inv ∧ midText.inputs.rst = false ∧ midText.seq.active = true ∧
    midText.inputs.evReady = true ∧ midText.seq.upc.toNat + 1 ≠ midText.eventList.length ∧
    (running 0x320045 3 (some ⟨0x70, true, true⟩)).seq.upc.toNat + 1 =
      (running 0x320045 3 (some ⟨0x70, true, true⟩)).eventList.length := by
  refine ⟨midText_inv, ?_⟩
  decide
theorem witness_EmissionStep_last : (running 0x320045 3 (some ⟨0x70, true, true⟩)).Inv :=
  ⟨by decide, cfg_currents, by decide, by decide⟩
theorem witness_WaitingChangesNothing :
    (midText.withInputs { quiet with evReady := false }).inputs.evReady = false ∧
    (midText.withInputs { quiet with evReady := false }).seq.active = true ∧
    ready.seq.active = false ∧ ready.inputs.cmdValid = false ∧ ready.inputs.rst = false := by decide
theorem witness_BlockReset : (midText.withSchedule [{ quiet with rst := true }]).sample.inputs.rst = true ∧
    (midText.withInputs { quiet with rst := true }).inputs.rst = true := by decide
theorem witness_StatusBits : midText.inputs.rst = false ∧ midText.status = 0x23 := by decide
theorem witness_HandshakePorts : midText.evValid = true ∧ midText.presented = some (.byte 0x66) ∧
    (running 0x320045 0 none).presented = some (.start 0x70) ∧
    (running 0x320045 3 none).presented = some .stop ∧ ready.evValid = false := by decide
theorem witness_TxnOpenAgreesWithTheBus : midText.Inv ∧ midText.txnOpen = true ∧ ready.Inv ∧ ready.txnOpen = false :=
  ⟨midText_inv, by decide, ready_inv, by decide⟩
theorem witness_TransactionsAreNeverInterleaved : midText.Inv ∧ midText.handedOver = some (.byte 0x66) ∧
    (running 0x320045 0 none).handedOver = some (.start 0x70) ∧
    (running 0x320045 3 (some ⟨0x70, true, true⟩)).handedOver = some .stop := by
  refine ⟨midText_inv, ?_⟩
  decide
theorem witness_TransactionsAreNeverInterleaved_start : (running 0x320045 0 none).Inv :=
  ⟨by decide, cfg_currents, by decide, by decide⟩
theorem witness_ChipRegisterWrites : ((0x07 : Byte) ≤ 0x07 ∧ (0x07 : Byte) ≤ 0x0B) ∧
    ((0x0E : Byte) ≤ 0x18 ∧ (0x18 : Byte) ≤ 0x18) ∧ ((0x1A : Byte) ≤ 0xFE ∧ (0xFE : Byte) ≤ 0xFE) := by decide
theorem witness_OnlyTheAddressedChipActs_data : ∃ t, carry (.byte 0x66) midText = .next t ∧
    midText.txn = some ⟨0x70, true, false⟩ ∧ midText.cfg.addr4 = 0x70 ∧ midText.cfg.addr6 ≠ 0x70 ∧
    midText.inputs.deliver = true ∧ t.chip4.stg[3] = 0x66 := ⟨_, rfl, by decide⟩
theorem witness_OnlyTheAddressedChipActs_first : ∃ t,
    carry (.byte 0x01) (midText.withTxn (some ⟨0x71, false, false⟩)) = .next t ∧ t.chip6.ptr = 0x01 ∧
    t.chip4 = midText.chip4 := ⟨_, rfl, by decide⟩
theorem witness_OnlyTheAddressedChipActs_cut : ∃ t,
    carry (.byte 0x66) (midText.withTxn (some ⟨0x70, true, true⟩)) = .next t ∧ t.chip4 = midText.chip4 :=
  ⟨_, rfl, by decide⟩
theorem witness_OnlyTheAddressedChipActs_stop : ∃ t, carry .stop midText = .next t ∧ t.txn = none :=
  ⟨_, rfl, by decide⟩
theorem witness_OnlyTheAddressedChipActs_start : ∃ t, carry (.start 0x70) ready = .next t ∧ t.chip4 = ready.chip4 :=
  ⟨_, rfl, by decide⟩
theorem witness_CutShortStagingKeepsTheRest : ([] : List Byte).length ≤ 6 ∧
    ([1, 2, 3, 4, 5, 6] : List Byte).length ≤ 6 := by decide
theorem witness_RepeatedTransactionIsIdempotent : ∃ data : List Byte, ([0x01, 7, 8] : List Byte) = 0x01 :: data ∧
    data.length ≤ 6 := ⟨[7, 8], rfl, by decide⟩
theorem witness_LiveChangesOnlyByCommitOrReset : ∃ t, step midCommit = .next t ∧
    (t.chip .fourDigit).live ≠ (midCommit.chip .fourDigit).live ∧ midCommit.sample.inputs.cycles .fourDigit = false :=
  ⟨_, rfl, by decide⟩
theorem midCommit_dataReaches : midCommit.dataReaches .fourDigit :=
  ⟨0x00, ⟨0x70, true, false⟩, by decide⟩
theorem witness_LiveChangesOnlyByPowerCycle : ∃ t,
    step ((ready.withChip6 { Chip.powerOn dft with live := Vector.replicate 6 0 }).withSchedule
      [{ quiet with cycle6 := true }]) = .next t ∧ t.chip6.live ≠ Vector.replicate 6 0 := ⟨_, rfl, by decide⟩
theorem witness_ChipsChangeOnlyByBytesOrPowerCycle : ∃ t, step ready = .next t ∧
    ready.handedOver = none ∧ ready.sample.inputs.cycle4 = false ∧ ready.sample.inputs.cycle6 = false ∧
    (midText.withInputs { quiet with deliver := false }).sample.inputs.deliver = false ∧
    (midText.withSchedule [{ quiet with rst := true }]).sample.inputs.rst = true := ⟨_, rfl, by decide⟩
/-- The chip that is being written loses its power in the step that hands over a byte of its transaction. -/
theorem witness_PowerCycleRestoresDefaults : ∃ t, step (midText.withSchedule [{ quiet with cycle4 := true }]) = .next t ∧
    (midText.withSchedule [{ quiet with cycle4 := true }]).sample.inputs.cycles .fourDigit = true ∧
    (midText.withSchedule [{ quiet with cycle4 := true }]).handedOver = some (.byte 0x66) ∧
    t.chip .fourDigit = Chip.powerOn dft := ⟨_, rfl, by decide⟩
theorem witness_PowerCycleCutsTheOpenTransaction : ready.txn = none ∧
    (midText.withSchedule [{ quiet with cycle4 := true }]).sample.txn = some ⟨0x70, true, true⟩ ∧
    (midText.withSchedule [{ quiet with cycle6 := true }]).sample.txn = some ⟨0x70, true, false⟩ := by decide

/-- Mid-transaction at the reset byte of RSTDISP. -/
def midReset : State :=
  (running 0x44 2 (some ⟨0x70, true, false⟩)).withChip4 { Chip.powerOn dft with ptr := 0xFF, light := 0x0B }

theorem midReset_inv : midReset.Inv := ⟨by decide, cfg_currents, by decide, by decide⟩
theorem witness_DefaultCurrentIsAboveTheLimit : midReset.Inv ∧ midReset.dataReaches .fourDigit ∧
    (midReset.sample.chip .fourDigit).ptr = 0xFF ∧ midReset.current .fourDigit = some 20 ∧
    ∃ t, step midReset = .next t ∧ t.current .fourDigit = some 25 :=
  ⟨midReset_inv, ⟨0x00, ⟨0x70, true, false⟩, by decide⟩, by decide, by decide, _, rfl, by decide⟩
theorem witness_DefaultCurrentIsAboveTheLimit_cycle :
    (ready.withSchedule [{ quiet with cycle6 := true }]).sample.inputs.cycles .sixDigit = true := by decide
theorem witness_ResetMeetsTheInvariant : cfg.addr4 ≠ cfg.addr6 ∧ ∀ u, aboveLimit (cfg.defaults u) = true :=
  ⟨by decide, cfg_currents⟩
theorem witness_StepKeepsTheInvariant : midText.Inv ∧ ∃ t, step midText = .next t ∧ t.seq.upc = 6 :=
  ⟨midText_inv, _, rfl, by decide⟩
theorem witness_InvariantStatesNeverStop : midText.Inv ∧ fresh.Inv := ⟨midText_inv, fresh_inv⟩
theorem witness_StrapsNeverChange : ∃ t, step midText = .next t ∧ t.cfg = cfg := ⟨_, rfl, by decide⟩
theorem witness_StickyBitsStayUntilReset : ∃ t,
    step (ready.withSeq { ready.seq with errIllegal := true, errNoinit := true, errRng := true }) = .next t ∧
    ready.sample.inputs.rst = false ∧ t.status = 0x1E := ⟨_, rfl, by decide⟩
theorem witness_NothingHappensBeforeInit : fresh.Inv ∧ fresh.seq.initDone = false ∧
    ∃ t, step fresh = .next t ∧ fresh.sample.inputs.cmdValid = false ∧ t.seq.active = false :=
  ⟨fresh_inv, by decide, _, rfl, by decide⟩

theorem witness_CommandRunsToCompletion :
    (planned ready 0x43 123456 11).Runs 0x43 (presentRng 0x43 123456) (List.replicate 11 quiet) [] ∧
    (List.replicate 11 quiet).all Inputs.accepting = true :=
  ⟨⟨⟨by decide, cfg_currents, by decide, by decide⟩, by decide, rfl, by decide, by decide, by decide⟩, by decide⟩
theorem witness_InitLimitsBothChips :
    (planned fresh 0x1 0 8).Runs 0x1 (presentRng 0x1 0) (List.replicate 8 quiet) [] ∧
    (List.replicate 8 quiet).all Inputs.smooth = true ∧ opField 0x1 = 1 :=
  ⟨⟨⟨by decide, cfg_currents, by decide, by decide⟩, by decide, rfl, by decide, by decide, by decide⟩, by decide, by decide⟩
theorem witness_WtextShowsTheText :
    (planned ready 0x30392062 0 13).Runs 0x30392062 (presentRng 0x30392062 0) (List.replicate 13 quiet) [] ∧
    (List.replicate 13 quiet).all Inputs.smooth = true ∧ opField 0x30392062 = 2 :=
  ⟨⟨⟨by decide, cfg_currents, by decide, by decide⟩, by decide, rfl, by decide, by decide, by decide⟩, by decide, by decide⟩
theorem witness_WrandShowsTheLeadingDigits :
    (planned ready 0x43 999998 11).Runs 0x43 (presentRng 0x43 999998) (List.replicate 11 quiet) [] ∧
    (List.replicate 11 quiet).all Inputs.smooth = true ∧ opField 0x43 = 3 :=
  ⟨⟨⟨by decide, cfg_currents, by decide, by decide⟩, by decide, rfl, by decide, by decide, by decide⟩, by decide, by decide⟩
theorem witness_RstdispRestoresDefaultsAndLimit :
    (planned ready 0x44 0 8).Runs 0x44 (presentRng 0x44 0) (List.replicate 8 quiet) [] ∧
    (List.replicate 8 quiet).all Inputs.smooth = true ∧ opField 0x44 = 4 :=
  ⟨⟨⟨by decide, cfg_currents, by decide, by decide⟩, by decide, rfl, by decide, by decide, by decide⟩, by decide, by decide⟩
theorem witness_SetbrtSetsTheDuty :
    (planned ready 0x320045 0 4).Runs 0x320045 (presentRng 0x320045 0) (List.replicate 4 quiet) [] ∧
    (List.replicate 4 quiet).all Inputs.smooth = true ∧ opField 0x320045 = 5 :=
  ⟨⟨⟨by decide, cfg_currents, by decide, by decide⟩, by decide, rfl, by decide, by decide, by decide⟩, by decide, by decide⟩

end Sys2Proof.Tests
end

section
/-! SUPPORT. One step as a whole: the lookup on the LUT port moves nothing, and no phase writes the straps
(spec/00_scope.md R9, spec/41_sequencer_commands.md R166). -/
namespace Sys2Proof.Machine

/-- Whatever code stands on the LUT port, its instruction drives that code (R81, R100). -/
theorem exec_decodeLut (c : Byte) (s : State) : exec (decodeLut c) s = lookup c s := by
  unfold decodeLut
  split
  case h_11 => rfl
  all_goals
    next h => exact congrArg (lookup · s) (BitVec.eq_of_toNat_eq h).symm

theorem lookupPhase_eq (s : State) : lookupPhase s = .next s := exec_decodeLut s.inputs.encChar s

/-- A step is the environment's move and then the sequencer's part: the lookup between them moves nothing. -/
theorem step_eq (s : State) : step s = sequencerPhase s.sample := by
  unfold step cycle
  rw [lookupPhase_eq]

/-- An idle block out of reset runs the command word that stands on its port. -/
theorem sequencerPhase_presented {s : State} (hrst : s.inputs.rst = false) (hidle : s.seq.active = false)
    (hvalid : s.inputs.cmdValid = true) : sequencerPhase s = exec (decodeCmd s.inputs.cmdWord) s := by
  simp [sequencerPhase, hrst, hidle, hvalid]

theorem sequencerPhase_cfg {s t : State} (h : sequencerPhase s = .next t) : t.cfg = s.cfg := by
  obtain ⟨-, rfl⟩ | ⟨-, -, -, e, u, -, hcarry, rfl⟩ | ⟨-, -, -, q, rfl⟩ | ⟨-, rfl⟩ := sequencerPhase_next h
  · rfl
  · exact (carry_frame hcarry).1
  · rfl
  · rfl

/-- Settles O46: the environment's move and the sequencer's part both leave the straps alone. -/
theorem strapsNeverChange : Obligations.StrapsNeverChange := by
  intro s t h
  rw [step_eq] at h
  exact (sequencerPhase_cfg h).trans s.sample_frame.1

/-! ### The state after reset -/

theorem raised_light_ne (d : ChipDefaults) : d.raised.light ≠ CUR_MAX ∧ d.raised.light ≠ CUR_MIN := by
  simp only [ChipDefaults.raised]
  split
  · decide
  · next h => exact not_or.mp h

/-- Defaults that have been raised mean more than 20 mA: their code is neither of the two the block writes. -/
theorem aboveLimit_raised (d : ChipDefaults) : aboveLimit d.raised = true := by
  obtain ⟨hmax, hmin⟩ := raised_light_ne d
  have hcur : milliamps d.raised d.raised.light = some (21 + d.milliamps) := by
    rw [milliamps, if_neg hmax, if_neg hmin, if_pos rfl]
    rfl
  rw [aboveLimit, hcur]
  exact decide_eq_true (by omega)

theorem build_addrs_ne : Config.build.addr4 ≠ Config.build.addr6 := by
  simp only [Config.build]
  split
  · generalize Config.openAddr4 = a
    bv_omega
  · next h => exact fun heq => h heq.symm

theorem build_aboveLimit (u : DisplayTarget) : aboveLimit (Config.build.defaults u) = true := by
  cases u <;> exact aboveLimit_raised _

theorem resetOf_inv {cfg : Config} (haddrs : cfg.addr4 ≠ cfg.addr6)
    (hcurrents : ∀ u, aboveLimit (cfg.defaults u) = true) : (State.resetOf cfg).Inv where
  addrs := haddrs
  currents := hcurrents
  sequencer := rfl
  bus := rfl

theorem resetOf_txnOpen (cfg : Config) : (State.resetOf cfg).txnOpen = false := rfl

/-- STATUS is 0 after reset in every build (R201): no bit of R30 is set. -/
theorem resetOf_status (cfg : Config) : (State.resetOf cfg).status = 0x00 := by
  have hseq : (State.resetOf cfg).seq = Sequencer.reset := rfl
  have hbits : (State.resetOf cfg).statusBits = 0x00 := by
    rw [State.statusBits, resetOf_txnOpen, hseq]
    decide
  rw [State.status, hbits, ite_self]

/-- Settles O43: an idle block with no open transaction meets the invariant, and the build that State.reset
carries has distinct addresses and raised defaults. -/
theorem resetMeetsTheInvariant : Obligations.ResetMeetsTheInvariant :=
  ⟨fun _ => resetOf_inv, resetOf_inv build_addrs_ne build_aboveLimit, fun cfg => ⟨resetOf_status cfg, rfl, rfl, rfl⟩⟩

end Sys2Proof.Machine
end

section
/-! SUPPORT. The event lists end with STOP and are short enough for `S.upc` (spec/20_memory.md R61,
spec/41_sequencer_commands.md R121, R125). -/
namespace Sys2Proof.Machine

@[simp] theorem txnEvents_getLast? (a : BusAddr) (bs : List Byte) : (txnEvents a bs).getLast? = some .stop :=
  List.getLast?_concat (l := Event.start a :: bs.map Event.byte)

theorem digitCount_le_six (dc : BitVec 8) : digitCount dc ≤ 6 := by
  unfold digitCount
  cases target dc <;> decide

@[simp] theorem stage_length (cfg : Config) (dc : BitVec 8) (len : Nat) (cs : Vector Byte 6) :
    (stage cfg dc len cs).length = digitCount dc + 3 := by
  simp [stage, stagedBytes_length, digitCount_le_six]

@[simp] theorem stage_getLast? (cfg : Config) (dc : BitVec 8) (len : Nat) (cs : Vector Byte 6) :
    (stage cfg dc len cs).getLast? = some .stop := txnEvents_getLast? _ _

/-- The longest list is a six-digit WTEXT's or WRAND's, of 13 events: four bits index it (R27). -/
theorem events_length_le (cfg : Config) (i : Instr) (r : RandomWord) : (events cfg i r).length ≤ 13 := by
  cases i
  case wtext dc len c0 c1 c2 c3 c4 c5 =>
    have := digitCount_le_six dc
    simp only [events, eventsWtext, commit, List.length_append, stage_length, txnEvents_length, List.length_cons,
      List.length_nil]
    omega
  case wrand dc ign =>
    have := digitCount_le_six dc
    simp only [events, eventsWrand, commit, List.length_append, stage_length, txnEvents_length, List.length_cons,
      List.length_nil]
    omega
  all_goals simp [events, eventsInit, eventsRstdisp, eventsSetbrt, setCur, resetTxn, setPwm]

/-- Every transaction of a list is closed, the last one too (R61). -/
theorem events_getLast? {cfg : Config} {i : Instr} {r : RandomWord} {e : Event}
    (h : (events cfg i r).getLast? = some e) : e = .stop := by
  cases i
  case init | wtext | wrand | rstdisp | setbrt =>
    simpa [events, eventsInit, eventsWtext, eventsWrand, eventsRstdisp, eventsSetbrt, setCur, commit, resetTxn,
      setPwm, eq_comm] using h
  all_goals cases h

theorem State.eventList_length_le (s : State) : s.eventList.length ≤ 13 := events_length_le _ _ _

/-- The event presented last is a STOP. -/
theorem State.presented_last {s : State} {e : Event} (h : s.presented = some e)
    (hlast : s.seq.upc.toNat + 1 = s.eventList.length) : e = .stop := by
  apply events_getLast? (cfg := s.cfg) (i := decodeCmd s.seq.cmd) (r := s.seq.rnd)
  rw [List.getLast?_eq_getElem?, ← h, State.presented, State.eventList]
  rw [State.eventList] at hlast
  rw [← hlast, Nat.add_sub_cancel]

end Sys2Proof.Machine
end

section
/-! SUPPORT. The agreement of the bus master and the chips with the open transaction (spec/20_memory.md R61,
spec/60_exceptions.md R181, R182, R186): it follows the events one by one. -/
namespace Sys2Proof.Machine

/-- The bus master's transaction `o` and both chips stand where the bytes so far of a transaction to `a` put
them. A transaction that has been cut off may have lost its register byte. -/
structure State.Follows (s : State) (a : BusAddr) (bytes : List Byte) (o : OpenTxn) : Prop where
  addr : o.addr = a
  register : o.ptrSet = !bytes.isEmpty ∨ o.cut = true
  chips : ∀ u, (s.chip u).agrees (s.cfg.addr u) o bytes = true

/-- The open transaction is the one that the events so far have left open. -/
def State.BusFollows (s : State) : Option (BusAddr × List Byte) → Prop
  | none => s.txn = none
  | some (a, bytes) => ∃ o, s.txn = some o ∧ s.Follows a bytes o

theorem State.follows_iff (s : State) (a : BusAddr) (bytes : List Byte) (o : OpenTxn) :
    s.Follows a bytes o ↔ (o.addr == a && (o.ptrSet == !bytes.isEmpty || o.cut) &&
      s.chip4.agrees s.cfg.addr4 o bytes && s.chip6.agrees s.cfg.addr6 o bytes) = true := by
  simp only [Bool.and_eq_true, Bool.or_eq_true, beq_iff_eq]
  constructor
  · rintro ⟨haddr, hreg, hchips⟩
    exact ⟨⟨⟨haddr, hreg⟩, hchips .fourDigit⟩, hchips .sixDigit⟩
  · rintro ⟨⟨⟨haddr, hreg⟩, h4⟩, h6⟩
    exact ⟨haddr, hreg, fun u => match u with | .fourDigit => h4 | .sixDigit => h6⟩

/-- The invariant's clause about the bus, against the sequencer's own account. -/
theorem State.busAgrees_iff (s : State) : s.busAgrees = true ↔ s.BusFollows s.pendingTxn := by
  unfold State.busAgrees
  split
  · next hp ht => simp [hp, ht, State.BusFollows]
  · next a bytes o hp ht => simp [hp, ht, State.BusFollows, State.follows_iff]
  · next h₁ h₂ =>
    rcases hp : s.pendingTxn with _ | ⟨a, bytes⟩ <;> rcases ht : s.txn with _ | o
    · exact (h₁ hp ht).elim
    · simp [State.BusFollows, ht]
    · simp [State.BusFollows, ht]
    · exact (h₂ a bytes o hp ht).elim

/-! ### What a chip that listens must meet -/

theorem Chip.agrees_iff (c : Chip) (a : BusAddr) (o : OpenTxn) (bytes : List Byte) :
    c.agrees a o bytes = true ↔ (o.reaches a = true → ∀ p ∈ pointerAfter bytes, p = c.ptr) := by
  cases ho : o.reaches a <;> simp [Chip.agrees, ho, Option.all_eq_true]

/-- Before its register byte a transaction puts no chip's pointer anywhere. -/
theorem Chip.agrees_nil (c : Chip) (a : BusAddr) (o : OpenTxn) : c.agrees a o [] = true := by
  simp [Chip.agrees, pointerAfter]

theorem OpenTxn.reaches_iff (o : OpenTxn) (a : BusAddr) : o.reaches a = true ↔ o.addr = a ∧ o.cut = false := by
  simp [OpenTxn.reaches]

/-- One more byte moves the pointer on by one, or sets it if it is the first. -/
theorem pointerAfter_concat (bytes : List Byte) (b : Byte) :
    pointerAfter (bytes ++ [b]) = some (((pointerAfter bytes).map (· + 1)).getD b) := by
  cases bytes with
  | nil => simp [pointerAfter]
  | cons r data => simp [pointerAfter, BitVec.ofNat_add, BitVec.add_assoc]

/-- A chip that hears one more byte agrees with the transaction that has one more byte. -/
theorem Chip.hear_agrees {c c' : Chip} {d : ChipDefaults} {a : BusAddr} {o : OpenTxn} {delivered : Bool}
    {bytes : List Byte} {b : Byte} (hreg : o.ptrSet = !bytes.isEmpty ∨ o.cut = true)
    (h : c.agrees a o bytes = true)
    (hear : c.hear ((o.cutUnless delivered).reaches a) d o.ptrSet b = some c') :
    c'.agrees a { o.cutUnless delivered with ptrSet := true } (bytes ++ [b]) = true := by
  rw [Chip.agrees_iff]
  intro hreach
  have hlisten : (o.cutUnless delivered).reaches a = true := hreach
  obtain ⟨haddr, hcut⟩ := (OpenTxn.reaches_iff _ _).mp hlisten
  have huncut : o.cut = false := (Bool.or_eq_false_iff.mp hcut).1
  have hptr := (Chip.agrees_iff _ _ _ _).mp h ((OpenTxn.reaches_iff _ _).mpr ⟨haddr, huncut⟩)
  have hset : o.ptrSet = !bytes.isEmpty := hreg.resolve_right (by simp [huncut])
  rw [hlisten, hset] at hear
  cases bytes with
  | nil =>
    have : c' = { c with ptr := b } := (Option.some.inj hear).symm
    simp [this, pointerAfter]
  | cons r data =>
    rw [pointerAfter_concat, Chip.writeData_ptr hear, ← hptr _ rfl]
    simp [pointerAfter]

/-! ### Carrying an event -/

theorem carryByte_next {b : Byte} {o : OpenTxn} {s t : State} (h : carryByte b o s = .next t) :
    t.cfg = s.cfg ∧ t.txn = some { o with ptrSet := true } ∧
    ∀ u, (s.chip u).hear (o.reaches (s.cfg.addr u)) (s.cfg.defaults u) o.ptrSet b = some (t.chip u) := by
  unfold carryByte at h
  split at h
  · next c4 c6 h4 h6 =>
    cases h
    exact ⟨rfl, rfl, fun u => match u with | .fourDigit => h4 | .sixDigit => h6⟩
  · cases h

/-- The commuting diagram of the bus: carrying an event is adding it to the account of the open transaction. -/
theorem carry_busFollows {s t : State} {e : Event} {p : Option (BusAddr × List Byte)} (h : carry e s = .next t)
    (hs : s.BusFollows p) : t.BusFollows (trackEvent p e) := by
  cases e with
  | start a =>
    cases h
    exact ⟨_, rfl, rfl, .inl rfl, fun u => Chip.agrees_nil _ _ _⟩
  | stop =>
    cases h
    rfl
  | byte b =>
    rcases p with _ | ⟨a, bytes⟩
    · have hnone : s.txn = none := hs
      simp [carry, hnone] at h
    · obtain ⟨o, ho, haddr, hreg, hchips⟩ := hs
      simp only [carry, ho] at h
      obtain ⟨hcfg, htxn, hhear⟩ := carryByte_next h
      refine ⟨_, htxn, haddr, .inl (by simp), fun u => ?_⟩
      rw [hcfg]
      exact Chip.hear_agrees hreg (hchips u) (hhear u)

/-! ### Power cycles -/

theorem State.BusFollows.congr {s t : State} {p : Option (BusAddr × List Byte)} (hs : s.BusFollows p)
    (hcfg : t.cfg = s.cfg) (htxn : t.txn = s.txn) (hchips : ∀ u, t.chip u = s.chip u) : t.BusFollows p := by
  rcases p with _ | ⟨a, bytes⟩
  · exact htxn.trans hs
  · obtain ⟨o, ho, haddr, hreg, hagree⟩ := hs
    exact ⟨o, htxn.trans ho, haddr, hreg, fun u => by rw [hchips, hcfg]; exact hagree u⟩

@[simp] theorem cutAt_addr (a : BusAddr) (o : OpenTxn) : (cutAt a o).addr = o.addr := by
  unfold cutAt
  split <;> rfl

@[simp] theorem cutAt_ptrSet (a : BusAddr) (o : OpenTxn) : (cutAt a o).ptrSet = o.ptrSet := by
  unfold cutAt
  split <;> rfl

theorem cutAt_cut (a : BusAddr) (o : OpenTxn) : (cutAt a o).cut = (o.cut || o.addr == a) := by
  unfold cutAt
  split
  · next h => simp [h]
  · next h => simp [h]

/-- After a cut at `a` nothing reaches the chip at `a`, and no chip is reached that was not reached before. -/
theorem OpenTxn.reaches_cutAt (o : OpenTxn) (a b : BusAddr) :
    (cutAt a o).reaches b = true ↔ o.reaches b = true ∧ b ≠ a := by
  simp only [OpenTxn.reaches_iff, cutAt_addr, cutAt_cut, Bool.or_eq_false_iff, beq_eq_false_iff_ne]
  constructor
  · rintro ⟨rfl, hcut, hne⟩
    exact ⟨⟨rfl, hcut⟩, hne⟩
  · rintro ⟨⟨rfl, hcut⟩, hne⟩
    exact ⟨rfl, hcut, hne⟩

/-- A power cycle of the chip of `u` cuts the transaction off at that chip and leaves the other chip alone. -/
theorem State.BusFollows.powerCycled {s t : State} {p : Option (BusAddr × List Byte)} (u : DisplayTarget)
    (hs : s.BusFollows p) (hcfg : t.cfg = s.cfg) (htxn : t.txn = s.txn.map (cutAt (s.cfg.addr u)))
    (hother : ∀ v, v ≠ u → t.chip v = s.chip v) : t.BusFollows p := by
  rcases p with _ | ⟨a, bytes⟩
  · have hnone : s.txn = none := hs
    simpa [State.BusFollows, hnone] using htxn
  · obtain ⟨o, ho, haddr, hreg, hagree⟩ := hs
    refine ⟨cutAt (s.cfg.addr u) o, by rw [htxn, ho]; rfl, by simpa using haddr, ?_, fun v => ?_⟩
    · exact hreg.imp (by simp) (by simp +contextual [cutAt_cut])
    · rw [Chip.agrees_iff, hcfg]
      intro hreach
      obtain ⟨hbefore, hne⟩ := (OpenTxn.reaches_cutAt _ _ _).mp hreach
      rw [hother v fun h => hne (congrArg s.cfg.addr h)]
      exact (Chip.agrees_iff _ _ _ _).mp (hagree v) hbefore

theorem State.powerCycle4_busFollows {s : State} {p : Option (BusAddr × List Byte)} (hs : s.BusFollows p) :
    s.powerCycle4.BusFollows p := by
  unfold State.powerCycle4
  split
  · refine hs.powerCycled .fourDigit rfl rfl fun v hv => ?_
    cases v with
    | fourDigit => exact absurd rfl hv
    | sixDigit => rfl
  · exact hs

theorem State.powerCycle6_busFollows {s : State} {p : Option (BusAddr × List Byte)} (hs : s.BusFollows p) :
    s.powerCycle6.BusFollows p := by
  unfold State.powerCycle6
  split
  · refine hs.powerCycled .sixDigit rfl rfl fun v hv => ?_
    cases v with
    | fourDigit => rfl
    | sixDigit => exact absurd rfl hv
  · exact hs

theorem State.sample_busFollows {s : State} {p : Option (BusAddr × List Byte)} (hs : s.BusFollows p) :
    s.sample.BusFollows p := by
  obtain ⟨hcfg, -, htxn, h4, h6⟩ := s.nextInputs_frame
  have hnext : s.nextInputs.BusFollows p :=
    hs.congr hcfg htxn fun u => match u with | .fourDigit => h4 | .sixDigit => h6
  exact State.powerCycle6_busFollows (State.powerCycle4_busFollows hnext)

end Sys2Proof.Machine
end

section
/-! SUPPORT. The sequencer's part of the invariant: what an emission (spec/41_sequencer_commands.md R162) and an
acceptance (R160) make of it. -/
namespace Sys2Proof.Machine

/-- The sequencer's own account reads the straps and the sequencer alone. -/
theorem State.account_congr {s t : State} (hcfg : t.cfg = s.cfg) (hseq : t.seq = s.seq) :
    t.eventList = s.eventList ∧ t.presented = s.presented ∧ t.pendingTxn = s.pendingTxn ∧
      t.seqAgrees = s.seqAgrees := by
  have hlist : t.eventList = s.eventList := by rw [State.eventList, State.eventList, hcfg, hseq]
  have hlegal : t.latchedRandomLegal = s.latchedRandomLegal := by
    rw [State.latchedRandomLegal, State.latchedRandomLegal, hseq]
  simp [State.presented, State.pendingTxn, State.seqAgrees, hlist, hlegal, hseq]

theorem State.seqAgrees_of_active {s : State} (h : s.seq.active = true) :
    s.seqAgrees = true ↔
      s.seq.initDone = true ∧ s.seq.upc.toNat < s.eventList.length ∧ s.latchedRandomLegal = true := by
  simp [State.seqAgrees, h, and_assoc]

theorem State.seqAgrees_of_idle {s : State} (h : s.seq.active = false) : s.seqAgrees = true ↔ s.seq.upc = 0 := by
  simp [State.seqAgrees, h]

theorem State.pendingTxn_of_upc_zero {s : State} (h : s.seq.upc = 0) : s.pendingTxn = none := by
  simp [State.pendingTxn, h, openTxnOf]

theorem State.pendingTxn_of_idle {s : State} (h : s.seq.active = false) : s.pendingTxn = none := by
  simp [State.pendingTxn, h]

/-! ### Emission -/

theorem State.upc_lt_of_presented {s : State} {e : Event} (h : s.presented = some e) :
    s.seq.upc.toNat < s.eventList.length :=
  (List.getElem?_eq_some_iff.mp h).1

theorem State.advance_last {s : State} (h : s.seq.upc.toNat + 1 = s.eventList.length) :
    s.advance.seq = { s.seq with active := false, upc := 0 } := if_pos h

theorem State.advance_more {s : State} (h : s.seq.upc.toNat + 1 ≠ s.eventList.length) :
    s.advance.seq = { s.seq with upc := s.seq.upc + 1 } := if_neg h

/-- With an event left after the presented one, `S.upc` does not wrap. -/
theorem State.upc_succ_toNat {s : State} (h : s.seq.upc.toNat + 1 < s.eventList.length) :
    (s.seq.upc + 1).toNat = s.seq.upc.toNat + 1 := by
  have := s.eventList_length_le
  have hlt : s.seq.upc.toNat + (1 : BitVec 4).toNat < 2 ^ 4 := by simp; omega
  exact BitVec.toNat_add_of_lt hlt

/-- Moving past an event adds it to the sequencer's account of the open transaction. -/
theorem State.advance_pendingTxn {s : State} {e : Event} (hactive : s.seq.active = true)
    (he : s.presented = some e) : s.advance.pendingTxn = trackEvent s.pendingTxn e := by
  by_cases hlast : s.seq.upc.toNat + 1 = s.eventList.length
  · rw [State.presented_last he hlast, State.pendingTxn_of_idle (by rw [State.advance_last hlast])]
    rfl
  · have hmore : s.seq.upc.toNat + 1 < s.eventList.length :=
      Nat.lt_of_le_of_ne (State.upc_lt_of_presented he) hlast
    have hseq := State.advance_more hlast
    have hlist : s.advance.eventList = s.eventList := by
      rw [State.eventList, hseq]
      rfl
    rw [State.pendingTxn, hlist, hseq, State.pendingTxn, if_pos hactive, if_pos hactive,
      State.upc_succ_toNat hmore, List.take_add_one, show s.eventList[s.seq.upc.toNat]? = some e from he]
    simp [openTxnOf]

theorem State.advance_seqAgrees {s : State} {e : Event} (hactive : s.seq.active = true)
    (he : s.presented = some e) (hs : s.seqAgrees = true) : s.advance.seqAgrees = true := by
  by_cases hlast : s.seq.upc.toNat + 1 = s.eventList.length
  · rw [State.seqAgrees, State.advance_last hlast]
    rfl
  · have hmore : s.seq.upc.toNat + 1 < s.eventList.length :=
      Nat.lt_of_le_of_ne (State.upc_lt_of_presented he) hlast
    obtain ⟨hinit, -, hlegal⟩ := (State.seqAgrees_of_active hactive).mp hs
    have hseq := State.advance_more hlast
    rw [State.seqAgrees_of_active (by rw [hseq]; exact hactive), State.eventList, State.latchedRandomLegal, hseq]
    exact ⟨hinit, (State.upc_succ_toNat hmore).trans_lt hmore, hlegal⟩

/-! ### Acceptance -/

/-- What an acceptance step makes of an idle block: the sequencer alone may have moved, it stands at event 0,
and its part of the invariant holds. -/
def StandsAtZero (s : State) (r : Result) : Prop :=
  ∃ q : Sequencer, r = .next (s.withSeq q) ∧ q.upc = 0 ∧ (s.withSeq q).seqAgrees = true

/-- The word `w` with the random value `r` is a command of the build: it has events, and a WRAND's value is legal. -/
def Runnable (cfg : Config) (w : CmdWord) (r : RandomWord) : Prop :=
  0 < (events cfg (decodeCmd w) r).length ∧ ∀ dc ign, decodeCmd w = .wrand dc ign → rngInRange r = true

theorem State.latchedRandomLegal_iff (s : State) :
    s.latchedRandomLegal = true ↔ ∀ dc ign, decodeCmd s.seq.cmd = .wrand dc ign → rngInRange s.seq.rnd = true := by
  unfold State.latchedRandomLegal
  split
  · next dc ign hw => simp [hw]
  · next hw => exact iff_of_true rfl fun dc ign h => (hw dc ign h).elim

/-- Every legal command has at least one event. -/
theorem events_length_pos (cfg : Config) (r : RandomWord) {i : Instr} (hcmd : i.isCommandWord = true)
    (hlegal : i.isIllegal = false) : 0 < (events cfg i r).length := by
  cases i
  case init | wtext | wrand | rstdisp | setbrt =>
    simp [events, eventsInit, eventsWtext, eventsWrand, eventsRstdisp, eventsSetbrt, setCur, commit, resetTxn, setPwm]
  case illegal0 | illegal6 | illegal7 | illegal8 | illegal9 | illegalA | illegalB | illegalC | illegalD | illegalE |
      illegalF => cases hlegal
  all_goals cases hcmd

theorem runnable_of_decode (cfg : Config) {w : CmdWord} {r : RandomWord} {i : Instr} (hw : decodeCmd w = i)
    (hlegal : i.isIllegal = false) (hrng : ∀ dc ign, i = .wrand dc ign → rngInRange r = true) : Runnable cfg w r := by
  subst hw
  exact ⟨events_length_pos cfg r (decodeCmd_isCommandWord w) hlegal, hrng⟩

/-! The opcode alone selects the command (R79). -/

theorem decodeCmd_init {w : CmdWord} (h : opField w = 0x1) : decodeCmd w = .init (w.extractLsb' 4 60) := by
  simp [decodeCmd, h]

theorem decodeCmd_wtext {w : CmdWord} (h : opField w = 0x2) :
    decodeCmd w = .wtext (dcField w) (lenField w) (charField w 0) (charField w 1) (charField w 2) (charField w 3)
      (charField w 4) (charField w 5) := by
  simp [decodeCmd, h]

theorem decodeCmd_wrand {w : CmdWord} (h : opField w = 0x3) :
    decodeCmd w = .wrand (dcField w) (w.extractLsb' 12 52) := by
  simp [decodeCmd, h]

theorem decodeCmd_rstdisp {w : CmdWord} (h : opField w = 0x4) :
    decodeCmd w = .rstdisp (dcField w) (w.extractLsb' 12 52) := by
  simp [decodeCmd, h]

theorem decodeCmd_setbrt {w : CmdWord} (h : opField w = 0x5) :
    decodeCmd w = .setbrt (dcField w) (lenField w) (pctField w) (w.extractLsb' 32 32) := by
  simp [decodeCmd, h]

theorem standsAtZero_acceptInit (s : State) {w : CmdWord} (h : Runnable s.cfg w 0) :
    StandsAtZero s (acceptInit w s) := by
  refine ⟨_, rfl, rfl, (State.seqAgrees_of_active rfl).mpr ⟨rfl, h.1, ?_⟩⟩
  exact (State.latchedRandomLegal_iff _).mpr h.2

theorem standsAtZero_accept {s : State} {w : CmdWord} {r : RandomWord} (hinit : s.seq.initDone = true)
    (h : Runnable s.cfg w r) : StandsAtZero s (accept w r s) := by
  refine ⟨_, rfl, rfl, (State.seqAgrees_of_active rfl).mpr ⟨hinit, h.1, ?_⟩⟩
  exact (State.latchedRandomLegal_iff _).mpr h.2

section
variable {s : State} (hidle : s.seq.active = false) (hzero : s.seq.upc = 0)
include hidle hzero

theorem standsAtZero_self : StandsAtZero s (.next s) :=
  ⟨s.seq, rfl, hzero, (State.seqAgrees_of_idle hidle).mpr hzero⟩

theorem standsAtZero_reject (k : Rejection) : StandsAtZero s (reject k s) :=
  have hupc : (s.seq.flag k).upc = 0 := (Sequencer.flag_upc _ k).trans hzero
  ⟨s.seq.flag k, rfl, hupc, (State.seqAgrees_of_idle ((Sequencer.flag_active _ k).trans hidle)).mpr hupc⟩

theorem standsAtZero_offer {r : Result} (h : StandsAtZero s r) : StandsAtZero s (offer s r) := by
  unfold offer
  split
  · exact h
  · exact standsAtZero_self hidle hzero

theorem standsAtZero_ifInitDone {r : Result} (h : s.seq.initDone = true → StandsAtZero s r) :
    StandsAtZero s (ifInitDone s r) := by
  unfold ifInitDone
  split
  · next hinit => exact h hinit
  · exact standsAtZero_reject hidle hzero _

theorem standsAtZero_ifRngInRange {r : Result} (h : rngInRange s.inputs.rngValue = true → StandsAtZero s r) :
    StandsAtZero s (ifRngInRange s r) := by
  unfold ifRngInRange
  split
  · next hrng => exact h hrng
  · exact standsAtZero_reject hidle hzero _

/-- A command that may run whenever the bus is open. -/
theorem standsAtZero_offer_accept {w : CmdWord} (h : Runnable s.cfg w 0) :
    StandsAtZero s (offer s (ifInitDone s (accept w 0 s))) :=
  standsAtZero_offer hidle hzero (standsAtZero_ifInitDone hidle hzero fun hinit => standsAtZero_accept hinit h)

/-- Whatever instruction of the command port an idle block runs, it stands at event 0 afterwards (R160, R170). -/
theorem exec_command_standsAtZero (i : Instr) (h : i.isCommandWord = true) : StandsAtZero s (exec i s) := by
  cases i
  case init ign =>
    exact standsAtZero_offer hidle hzero (standsAtZero_acceptInit s
      (runnable_of_decode _ (decodeCmd_init (Laws.TableRow.opField_wordOp _ _)) rfl nofun))
  case wtext dc len c0 c1 c2 c3 c4 c5 =>
    exact standsAtZero_offer_accept hidle hzero
      (runnable_of_decode _ (decodeCmd_wtext (Laws.TableRow.opField_wordT _ _ _ _ _ _ _ _ _)) rfl nofun)
  case wrand dc ign =>
    exact standsAtZero_offer hidle hzero (standsAtZero_ifInitDone hidle hzero fun hinit =>
      standsAtZero_ifRngInRange hidle hzero fun hrng => standsAtZero_accept hinit
        (runnable_of_decode _ (decodeCmd_wrand (Laws.TableRow.opField_wordD _ _ _)) rfl fun _ _ _ => hrng))
  case rstdisp dc ign =>
    exact standsAtZero_offer_accept hidle hzero
      (runnable_of_decode _ (decodeCmd_rstdisp (Laws.TableRow.opField_wordD _ _ _)) rfl nofun)
  case setbrt dc lo pct hi =>
    exact standsAtZero_offer_accept hidle hzero
      (runnable_of_decode _ (decodeCmd_setbrt (Laws.TableRow.opField_wordB _ _ _ _ _)) rfl nofun)
  case illegal0 | illegal6 | illegal7 | illegal8 | illegal9 | illegalA | illegalB | illegalC | illegalD | illegalE |
      illegalF => exact standsAtZero_offer hidle hzero (standsAtZero_reject hidle hzero .illegal)
  all_goals cases h

end

end Sys2Proof.Machine
end

section
/-! SUPPORT. The invariant along a step: the environment's move keeps it, and so does each thing the sequencer can
do (spec/41_sequencer_commands.md R160, R162, R163, spec/70_reset_and_hazards.md R200). -/
namespace Sys2Proof.Machine

theorem State.sample_inv {s : State} (hs : s.Inv) : s.sample.Inv := by
  obtain ⟨hcfg, hseq⟩ := s.sample_frame
  obtain ⟨-, -, hpending, hagrees⟩ := State.account_congr hcfg hseq
  refine ⟨hcfg ▸ hs.addrs, hcfg ▸ hs.currents, hagrees.trans hs.sequencer, s.sample.busAgrees_iff.mpr ?_⟩
  rw [hpending]
  exact State.sample_busFollows (s.busAgrees_iff.mp hs.bus)

theorem State.blockReset_inv {s : State} (hs : s.Inv) : s.blockReset.Inv :=
  ⟨hs.addrs, hs.currents, rfl, rfl⟩

/-- An emission step keeps the invariant: the bus master, the chips and the sequencer's account move past the same
event. -/
theorem State.advance_inv {s u : State} {e : Event} (hs : s.Inv) (hactive : s.seq.active = true)
    (he : s.presented = some e) (hcarry : carry e s = .next u) : u.advance.Inv := by
  obtain ⟨hcfg, hseq, -, -⟩ := carry_frame hcarry
  obtain ⟨-, hpresented, hpending, hagrees⟩ := State.account_congr hcfg hseq
  have huactive : u.seq.active = true := hseq ▸ hactive
  have hue : u.presented = some e := hpresented.trans he
  have hbus : u.BusFollows (trackEvent s.pendingTxn e) := carry_busFollows hcarry (s.busAgrees_iff.mp hs.bus)
  refine ⟨hcfg ▸ hs.addrs, hcfg ▸ hs.currents,
    State.advance_seqAgrees huactive hue (hagrees.trans hs.sequencer), u.advance.busAgrees_iff.mpr ?_⟩
  rw [State.advance_pendingTxn huactive hue, hpending]
  exact hbus.congr rfl rfl fun v => by cases v <;> rfl

/-- An idle block that runs a command of the port keeps the invariant: at event 0 no transaction is open yet. -/
theorem exec_command_inv {s t : State} {i : Instr} (hs : s.Inv) (hidle : s.seq.active = false)
    (hi : i.isCommandWord = true) (h : exec i s = .next t) : t.Inv := by
  have hzero : s.seq.upc = 0 := (State.seqAgrees_of_idle hidle).mp hs.sequencer
  obtain ⟨q, hq, hqzero, hagrees⟩ := exec_command_standsAtZero hidle hzero i hi
  obtain rfl : t = s.withSeq q := Host.Outcome.next.inj (h.symm.trans hq)
  refine ⟨hs.addrs, hs.currents, hagrees, (s.withSeq q).busAgrees_iff.mpr ?_⟩
  have hbus := s.busAgrees_iff.mp hs.bus
  rw [State.pendingTxn_of_upc_zero hzero] at hbus
  rw [State.pendingTxn_of_upc_zero hqzero]
  exact hbus

theorem sequencerPhase_inv {s t : State} (hs : s.Inv) (h : sequencerPhase s = .next t) : t.Inv := by
  obtain ⟨-, rfl⟩ | ⟨-, hactive, -, e, u, he, hcarry, rfl⟩ | ⟨hrst, hidle, hvalid, -⟩ | ⟨-, rfl⟩ :=
    sequencerPhase_next h
  · exact State.blockReset_inv hs
  · exact State.advance_inv hs hactive he hcarry
  · rw [sequencerPhase_presented hrst hidle hvalid] at h
    exact exec_command_inv hs hidle (decodeCmd_isCommandWord _) h
  · exact hs

/-- Settles O44: the environment's move keeps the invariant, and so does the sequencer's part of the step. -/
theorem stepKeepsTheInvariant : Obligations.StepKeepsTheInvariant := by
  intro s t hs h
  rw [step_eq] at h
  exact sequencerPhase_inv (State.sample_inv hs) h

end Sys2Proof.Machine
end

section
/-! SUPPORT. The output ports and the digit count (spec/10_state.md R21, R22, R26, R30), and the command port of a
block that is not ready (R163). -/
namespace Sys2Proof.Machine

/-- Settles O11: `target` tests for exactly 4, and the count and the address follow the target. -/
theorem digitCountNormalization : Obligations.DigitCountNormalization := by
  intro cfg dc
  constructor
  · rintro rfl
    exact ⟨rfl, digitCount_four, rfl⟩
  · intro h
    have htarget : target dc = .sixDigit := if_neg h
    exact ⟨htarget, digitCount_other h, congrArg cfg.addr htarget⟩

/-- Settles O24: every meaning of the command port is an offer, and an offer to a busy block is not taken. -/
theorem busyBlockTakesNoCommand : Obligations.BusyBlockTakesNoCommand := by
  intro i s hcmd hbusy
  cases i
  case init | wtext | wrand | rstdisp | setbrt | illegal0 | illegal6 | illegal7 | illegal8 | illegal9 | illegalA |
      illegalB | illegalC | illegalD | illegalE | illegalF => exact offer_busy hbusy _
  all_goals cases hcmd

theorem State.status_running {s : State} (h : s.inputs.rst = false) : s.status = s.statusBits := by
  simp [State.status, h]

theorem getLsbD_append_bit_zero {n : Nat} (x : BitVec n) (b : Bool) : (x ++ bit b).getLsbD 0 = b := by
  rw [BitVec.getLsbD_append]
  cases b <;> rfl

theorem getLsbD_append_bit_succ {n : Nat} (x : BitVec n) (b : Bool) (i : Nat) :
    (x ++ bit b).getLsbD (i + 1) = x.getLsbD i := by
  simp [bit, BitVec.getLsbD_append]

/-- Settles O31: STATUS appends its bits one by one, the lowest last, to the two zeros at the top. -/
theorem statusBits : Obligations.StatusBits := by
  intro s hrst
  rw [State.status_running hrst, State.statusBits]
  simp only [getLsbD_append_bit_succ, getLsbD_append_bit_zero]
  decide

/-! ### The driven event -/

theorem State.drivenEvent_valid {s : State} (h : s.evValid = true) : s.drivenEvent = s.presented := if_pos h

theorem State.drivenEvent_invalid {s : State} (h : s.evValid = false) : s.drivenEvent = none := by
  simp [State.drivenEvent, h]

theorem State.evPorts_some {s : State} {e : Event} (h : s.drivenEvent = some e) :
    s.evKind = e.kind ∧ s.evData = e.data := by
  simp [State.evKind, State.evData, h]

theorem State.evPorts_none {s : State} (h : s.drivenEvent = none) : s.evKind = 0b00 ∧ s.evData = 0x00 := by
  simp [State.evKind, State.evData, h]

theorem Event.kind_ne (e : Event) : e.kind ≠ 0b11 := by cases e <;> simp [Event.kind]

/-- Settles O32: the kind and the datum are those of the driven event, which is the presented one while
`ev_valid = 1`. -/
theorem handshakePorts : Obligations.HandshakePorts := by
  intro s
  have hpresented {e : Event} (hvalid : s.evValid = true) (h : s.presented = some e) :
      s.evKind = e.kind ∧ s.evData = e.data :=
    State.evPorts_some ((State.drivenEvent_valid hvalid).trans h)
  refine ⟨by simp [State.cmdReady], by simp [State.evValid], fun hrst => by simp [State.busEn, hrst],
    fun hvalid => State.evPorts_none (State.drivenEvent_invalid hvalid),
    fun hvalid => ⟨fun a => hpresented hvalid, fun b => hpresented hvalid, hpresented hvalid⟩, ?_⟩
  cases hdriven : s.drivenEvent with
  | none =>
    rw [(State.evPorts_none hdriven).1]
    decide
  | some e =>
    rw [(State.evPorts_some hdriven).1]
    exact e.kind_ne

end Sys2Proof.Machine
end

section
/-! SUPPORT. Every event of a command's list finds the bus as it needs it: a START with no transaction open, a STOP
and a BYTE inside one, and a data byte at a register that the spec describes (spec/20_memory.md R54, R55, R61,
spec/60_exceptions.md R186). -/
namespace Sys2Proof.Machine

/-- The registers of the chip that the spec describes (R185). -/
def modelledRegister (r : Byte) : Bool :=
  (0x01 ≤ r && r ≤ 0x06) || r == REG_COMMIT || r == REG_LIGHT || r == REG_PWM || r == REG_RESET

/-- The event may come next when the events so far have left `p` open. -/
def Permits (p : Option (BusAddr × List Byte)) : Event → Prop
  | .start _ => p = none
  | .byte _ => ∃ a bytes, p = some (a, bytes) ∧ ∀ r ∈ pointerAfter bytes, modelledRegister r = true
  | .stop => p.isSome = true

/-- From an account `p` the events may come one after the other, and at their end no transaction is open. -/
def Closes : Option (BusAddr × List Byte) → List Event → Prop
  | p, [] => p = none
  | p, e :: es => Permits p e ∧ Closes (trackEvent p e) es

theorem Closes.append {p : Option (BusAddr × List Byte)} {es fs : List Event} (hes : Closes p es)
    (hfs : Closes none fs) : Closes p (es ++ fs) := by
  induction es generalizing p with
  | nil => exact (show p = none from hes) ▸ hfs
  | cons e es ih => exact ⟨hes.1, ih hes.2⟩

/-- What `Closes` says of the event at index `k`. -/
theorem Closes.permits {p : Option (BusAddr × List Byte)} {es : List Event} {k : Nat} {e : Event}
    (hes : Closes p es) (h : es[k]? = some e) : Permits ((es.take k).foldl trackEvent p) e := by
  induction es generalizing p k with
  | nil => simp at h
  | cons e' es ih =>
    cases k with
    | zero =>
      obtain rfl : e' = e := by simpa using h
      exact hes.1
    | succ k => exact ih hes.2 (by simpa using h)

/-- The rest of a transaction to register `r`: each data byte meets the pointer moved on past those before it. -/
theorem closes_data (a : BusAddr) (r : Byte) {done data : List Byte}
    (h : ∀ i, done.length ≤ i → i < done.length + data.length → modelledRegister (r + BitVec.ofNat 8 i) = true) :
    Closes (some (a, r :: done)) (data.map .byte ++ [.stop]) := by
  induction data generalizing done with
  | nil => exact ⟨rfl, rfl⟩
  | cons b data ih =>
    have hnow : modelledRegister (r + BitVec.ofNat 8 done.length) = true :=
      h _ le_rfl (by rw [List.length_cons]; omega)
    refine ⟨⟨a, r :: done, rfl, by simpa [pointerAfter] using hnow⟩, ih (done := done ++ [b]) fun i hlo hhi => ?_⟩
    rw [List.length_append, List.length_singleton] at hlo hhi
    exact h i (by omega) (by rw [List.length_cons]; omega)

/-- A whole transaction, of which every data byte meets a register that is described. -/
theorem closes_txnEvents (a : BusAddr) {r : Byte} {data : List Byte}
    (h : ∀ i < data.length, modelledRegister (r + BitVec.ofNat 8 i) = true) :
    Closes none (txnEvents a (r :: data)) :=
  ⟨rfl, ⟨a, [], rfl, nofun⟩, closes_data a r (done := []) fun i _ hi => h i (by simpa using hi)⟩

/-- A transaction with one data byte: every one but the staging of a text (R131 to R134). -/
theorem closes_txnEvents_one (a : BusAddr) {r : Byte} (b : Byte) (h : modelledRegister r = true) :
    Closes none (txnEvents a [r, b]) := by
  refine closes_txnEvents a fun i hi => ?_
  obtain rfl : i = 0 := by simpa using hi
  simpa using h

/-- A staging transaction writes the registers from 0x01 to at most 0x06 (R130, R187). -/
theorem closes_stage (cfg : Config) (dc : BitVec 8) (len : Nat) (cs : Vector Byte 6) :
    Closes none (stage cfg dc len cs) := by
  have hsix : ∀ i < 6, modelledRegister (REG_DATA + BitVec.ofNat 8 i) = true := by decide
  refine closes_txnEvents _ fun i hi => hsix i ?_
  rw [stagedBytes_length] at hi
  omega

theorem events_closes (cfg : Config) (i : Instr) (r : RandomWord) : Closes none (events cfg i r) := by
  have hcommit (dc) : Closes none (commit cfg dc) := closes_txnEvents_one _ _ rfl
  have hcur (a) : Closes none (setCur a CUR_MAX) := closes_txnEvents_one _ _ rfl
  cases i
  case init => exact (hcur _).append (hcur _)
  case wtext => exact (closes_stage _ _ _ _).append (hcommit _)
  case wrand => exact (closes_stage _ _ _ _).append (hcommit _)
  case rstdisp => exact (closes_txnEvents_one _ _ rfl).append (hcur _)
  case setbrt => exact closes_txnEvents_one _ _ rfl
  all_goals exact (rfl : none = none)

/-- The presented event may come next by the sequencer's own account. -/
theorem State.presented_permits {s : State} {e : Event} (hactive : s.seq.active = true)
    (he : s.presented = some e) : Permits s.pendingTxn e := by
  rw [State.pendingTxn, if_pos hactive]
  exact (events_closes _ _ _).permits he

/-! ### The open transaction -/

theorem openTxnOf_take_add_one {es : List Event} {k : Nat} {e : Event} (h : es[k]? = some e) :
    openTxnOf (es.take (k + 1)) = trackEvent (openTxnOf (es.take k)) e := by
  rw [List.take_add_one, h]
  simp [openTxnOf]

/-- After an event that may come next, a transaction is open unless the event is STOP. -/
theorem trackEvent_isSome {p : Option (BusAddr × List Byte)} {e : Event} (h : Permits p e) :
    (trackEvent p e).isSome = (e != .stop) := by
  cases e with
  | start a => rfl
  | stop => rfl
  | byte b =>
    obtain ⟨a, bytes, rfl, -⟩ := h
    rfl

theorem State.BusFollows.txn_isSome {s : State} {p : Option (BusAddr × List Byte)} (h : s.BusFollows p) :
    s.txn.isSome = p.isSome := by
  rcases p with _ | ⟨a, bytes⟩
  · exact congrArg Option.isSome (show s.txn = none from h)
  · obtain ⟨o, ho, -⟩ := h
    rw [ho]
    rfl

/-- R28's formula is the sequencer's account of the open transaction: it looks at the last event alone. -/
theorem State.txnOpen_eq_pendingTxn {s : State} (hs : s.seqAgrees = true) : s.txnOpen = s.pendingTxn.isSome := by
  cases hactive : s.seq.active with
  | false => simp [State.txnOpen, State.pendingTxn_of_idle hactive, hactive]
  | true =>
    obtain ⟨-, hupc, -⟩ := (State.seqAgrees_of_active hactive).mp hs
    rw [State.txnOpen, State.pendingTxn, if_pos hactive, hactive]
    cases hk : s.seq.upc.toNat with
    | zero => simp [openTxnOf]
    | succ k =>
      have hlast := List.getElem?_eq_getElem (l := s.eventList) (i := k) (by omega)
      have hpermits : Permits (openTxnOf (s.eventList.take k)) s.eventList[k] := (events_closes _ _ _).permits hlast
      rw [openTxnOf_take_add_one hlast, trackEvent_isSome hpermits, Nat.add_sub_cancel, hlast]
      rfl

/-- Settles O33: R28's formula and the bus master's transaction are both the sequencer's account. -/
theorem txnOpenAgreesWithTheBus : Obligations.TxnOpenAgreesWithTheBus := by
  intro s hs
  rw [State.txnOpen_eq_pendingTxn hs.sequencer, (s.busAgrees_iff.mp hs.bus).txn_isSome]

end Sys2Proof.Machine
end

section
/-! SUPPORT. Progress: in a state of the invariant no part of a step stops (spec/10_state.md R24, spec/20_memory.md
R55, R61, spec/41_sequencer_commands.md R162). -/
namespace Sys2Proof.Machine

/-- A write to a described register answers. -/
theorem Chip.writeReg_modelled (d : ChipDefaults) {r : Byte} (b : Byte) (c : Chip) (h : modelledRegister r = true) :
    ∃ c', c.writeReg d r b = some c' := by
  rw [← Option.isSome_iff_exists]
  unfold Chip.writeReg
  split_ifs
  case neg => simp_all [modelledRegister] -- all five tests have failed
  all_goals rfl

/-- The next byte of a transaction, if it may come, is taken by a chip that agrees with the bytes so far. -/
theorem Chip.hear_progress {c : Chip} {a : BusAddr} {o : OpenTxn} {bytes : List Byte}
    (d : ChipDefaults) (delivered : Bool) (b : Byte) (hreg : o.ptrSet = !bytes.isEmpty ∨ o.cut = true)
    (h : c.agrees a o bytes = true) (hmodelled : ∀ r ∈ pointerAfter bytes, modelledRegister r = true) :
    ∃ c', c.hear ((o.cutUnless delivered).reaches a) d o.ptrSet b = some c' := by
  cases hlisten : (o.cutUnless delivered).reaches a with
  | false => exact ⟨c, rfl⟩
  | true =>
    obtain ⟨haddr, hcut⟩ := (OpenTxn.reaches_iff _ _).mp hlisten
    have huncut : o.cut = false := (Bool.or_eq_false_iff.mp hcut).1
    have hptr := (Chip.agrees_iff _ _ _ _).mp h ((OpenTxn.reaches_iff _ _).mpr ⟨haddr, huncut⟩)
    rw [hreg.resolve_right (by simp [huncut])]
    cases bytes with
    | nil => exact ⟨_, Chip.hear_first d b c⟩
    | cons r data =>
      have hwrite : modelledRegister c.ptr = true := hptr _ rfl ▸ hmodelled _ rfl
      obtain ⟨c', hc'⟩ := Chip.writeReg_modelled d b c hwrite
      exact ⟨_, congrArg (Option.map _) hc'⟩

theorem carryByte_of_hear {b : Byte} {o : OpenTxn} {s : State} {c4 c6 : Chip}
    (h4 : s.chip4.hear (o.reaches s.cfg.addr4) s.cfg.defaults4 o.ptrSet b = some c4)
    (h6 : s.chip6.hear (o.reaches s.cfg.addr6) s.cfg.defaults6 o.ptrSet b = some c6) :
    carryByte b o s = .next (((s.withTxn (some { o with ptrSet := true })).withChip4 c4).withChip6 c6) := by
  simp [carryByte, h4, h6]

/-- The bus master can carry every event that may come next. -/
theorem carry_progress {s : State} {e : Event} {p : Option (BusAddr × List Byte)} (hs : s.BusFollows p)
    (he : Permits p e) : ∃ t, carry e s = .next t := by
  cases e with
  | start a => exact ⟨_, rfl⟩
  | stop => exact ⟨_, rfl⟩
  | byte b =>
    obtain ⟨a, bytes, rfl, hmodelled⟩ := he
    obtain ⟨o, ho, -, hreg, hchips⟩ := hs
    have hear (u : DisplayTarget) := Chip.hear_progress (s.cfg.defaults u) s.inputs.deliver b hreg (hchips u) hmodelled
    obtain ⟨c4, h4⟩ := hear .fourDigit
    obtain ⟨c6, h6⟩ := hear .sixDigit
    simp only [carry, ho]
    exact ⟨_, carryByte_of_hear h4 h6⟩

/-- In an active state of the invariant an event is presented, and the bus master can carry it. -/
theorem State.Inv.carry_presented {s : State} (hs : s.Inv) (hactive : s.seq.active = true) :
    ∃ e t, s.presented = some e ∧ carry e s = .next t := by
  obtain ⟨-, hupc, -⟩ := (State.seqAgrees_of_active hactive).mp hs.sequencer
  have he : s.presented = some _ := List.getElem?_eq_getElem hupc
  obtain ⟨t, ht⟩ := carry_progress (s.busAgrees_iff.mp hs.bus) (State.presented_permits hactive he)
  exact ⟨_, t, he, ht⟩

/-- An emission step carries the presented event and moves the sequencer past it. -/
theorem sequencerPhase_emission {s t : State} {e : Event} (hrst : s.inputs.rst = false)
    (hactive : s.seq.active = true) (hready : s.inputs.evReady = true) (he : s.presented = some e)
    (ht : carry e s = .next t) : sequencerPhase s = .next (t.withSeq (s.seq.advance s.eventList.length)) := by
  obtain ⟨hcfg, hseq, -, -⟩ := carry_frame ht
  obtain ⟨hlist, -⟩ := State.account_congr hcfg hseq
  simp [sequencerPhase, hrst, hactive, hready, emit, he, ht, State.advance, hlist, hseq]

/-- Settles O28: the presented event is there and can be carried, and the sequencer's move is R162's. -/
theorem emissionStep : Obligations.EmissionStep := by
  intro s hs hrst hactive hready
  obtain ⟨e, t, he, ht⟩ := hs.carry_presented hactive
  obtain ⟨hcfg, hseq, hinputs, hschedule⟩ := carry_frame ht
  have hvalid : s.evValid = true := by simp [State.evValid, hactive, hrst]
  have hphase := sequencerPhase_emission hrst hactive hready he ht
  refine ⟨e, t, (State.drivenEvent_valid hvalid).trans he, ht, hseq, hcfg, hinputs, hschedule, fun hlast => ?_,
    fun hmore => ?_⟩
  · rw [hphase, Sequencer.advance, if_pos hlast]
    rfl
  · rw [hphase, Sequencer.advance, if_neg hmore]
    rfl

theorem sequencerPhase_progress {s : State} (hs : s.Inv) : ∃ t, sequencerPhase s = .next t := by
  unfold sequencerPhase
  split_ifs with hrst hactive hready hvalid
  · exact ⟨_, rfl⟩
  · obtain ⟨e, t, he, ht⟩ := hs.carry_presented hactive
    exact ⟨t.advance, by simp [emit, he, ht]⟩
  · exact ⟨_, rfl⟩
  · obtain ⟨q, hq⟩ := exec_command_onlySeq _ s (decodeCmd_isCommandWord s.inputs.cmdWord)
    exact ⟨_, hq⟩
  · exact ⟨_, rfl⟩

/-- Settles O45: the environment's move keeps the invariant, and from there the sequencer's part answers. -/
theorem invariantStatesNeverStop : Obligations.InvariantStatesNeverStop := by
  intro s hs
  rw [step_eq]
  exact sequencerPhase_progress (State.sample_inv hs)

end Sys2Proof.Machine
end

section
/-! SUPPORT. The sticky bits and INIT_DONE (spec/10_state.md R30, spec/60_exceptions.md R175). -/
namespace Sys2Proof.Machine

/-- The answers an acceptance step can give (R160, R170 to R173). -/
inductive AcceptanceAnswer (s : State) : Result → Prop where
  | untaken : AcceptanceAnswer s (.next s)
  | rejected (k : Rejection) : AcceptanceAnswer s (reject k s)
  | accepted (w : CmdWord) (r : RandomWord) : AcceptanceAnswer s (accept w r s)
  | opened (w : CmdWord) : AcceptanceAnswer s (acceptInit w s)

theorem AcceptanceAnswer.offer {s : State} {r : Result} (h : AcceptanceAnswer s r) : AcceptanceAnswer s (offer s r) :=
  iteInduction (fun _ => h) fun _ => .untaken

theorem AcceptanceAnswer.ifInitDone {s : State} {r : Result} (h : AcceptanceAnswer s r) :
    AcceptanceAnswer s (ifInitDone s r) :=
  iteInduction (fun _ => h) fun _ => .rejected .noinit

theorem AcceptanceAnswer.ifRngInRange {s : State} {r : Result} (h : AcceptanceAnswer s r) :
    AcceptanceAnswer s (ifRngInRange s r) :=
  iteInduction (fun _ => h) fun _ => .rejected .rng

theorem exec_command_answer (i : Instr) (s : State) (h : i.isCommandWord = true) : AcceptanceAnswer s (exec i s) := by
  cases i
  case init => exact (AcceptanceAnswer.opened _).offer
  case wrand => exact (AcceptanceAnswer.accepted _ _).ifRngInRange.ifInitDone.offer
  case wtext | rstdisp | setbrt => exact (AcceptanceAnswer.accepted _ _).ifInitDone.offer
  case illegal0 | illegal6 | illegal7 | illegal8 | illegal9 | illegalA | illegalB | illegalC | illegalD | illegalE |
      illegalF => exact (AcceptanceAnswer.rejected .illegal).offer
  all_goals cases h

/-- No error bit and not INIT_DONE is cleared from `q` to `q'`. -/
structure Sequencer.Accumulates (q q' : Sequencer) : Prop where
  errIllegal : q.errIllegal = true → q'.errIllegal = true
  errNoinit : q.errNoinit = true → q'.errNoinit = true
  errRng : q.errRng = true → q'.errRng = true
  initDone : q.initDone = true → q'.initDone = true

theorem Sequencer.accumulates_refl (q : Sequencer) : q.Accumulates q := ⟨id, id, id, id⟩

theorem Sequencer.accumulates_flag (q : Sequencer) (k : Rejection) : q.Accumulates (q.flag k) := by
  cases k with
  | illegal => exact ⟨fun _ => rfl, id, id, id⟩
  | noinit => exact ⟨id, fun _ => rfl, id, id⟩
  | rng => exact ⟨id, id, fun _ => rfl, id⟩

theorem Sequencer.accumulates_advance (q : Sequencer) (n : Nat) : q.Accumulates (q.advance n) := by
  unfold Sequencer.advance
  split <;> exact ⟨id, id, id, id⟩

theorem AcceptanceAnswer.accumulates {s t : State} {r : Result} (h : AcceptanceAnswer s r) (hr : r = .next t) :
    s.seq.Accumulates t.seq := by
  cases h with
  | untaken => cases hr; exact s.seq.accumulates_refl
  | rejected k => cases hr; exact s.seq.accumulates_flag k
  | accepted w r => cases hr; exact ⟨id, id, id, id⟩
  | opened w => cases hr; exact ⟨id, id, id, fun _ => rfl⟩

theorem sequencerPhase_accumulates {s t : State} (hrst : s.inputs.rst = false) (h : sequencerPhase s = .next t) :
    s.seq.Accumulates t.seq := by
  obtain ⟨hreset, -⟩ | ⟨-, -, -, e, u, -, hcarry, rfl⟩ | ⟨-, hidle, hvalid, -⟩ | ⟨-, rfl⟩ := sequencerPhase_next h
  · simp [hrst] at hreset
  · obtain ⟨-, hseq, -, -⟩ := carry_frame hcarry
    exact hseq ▸ u.seq.accumulates_advance _
  · rw [sequencerPhase_presented hrst hidle hvalid] at h
    exact (exec_command_answer _ s (decodeCmd_isCommandWord _)).accumulates h
  · exact t.seq.accumulates_refl

/-- Settles O47: only a reset step clears a bit, and the environment's move leaves the sequencer alone. -/
theorem stickyBitsStayUntilReset : Obligations.StickyBitsStayUntilReset := by
  intro s t h hrst
  rw [step_eq] at h
  obtain ⟨hillegal, hnoinit, hrng, hinit⟩ := s.sample_frame.2 ▸ sequencerPhase_accumulates hrst h
  exact ⟨hillegal, hnoinit, hrng, hinit⟩

end Sys2Proof.Machine
end

section
/-! SUPPORT. Forgetting the close status passes through every part of a step (spec/10_state.md R22,
spec/60_exceptions.md R176). -/
namespace Sys2Proof.Machine

@[simp] theorem State.forgetBusStatus_cfg (s : State) : s.forgetBusStatus.cfg = s.cfg := rfl
@[simp] theorem State.forgetBusStatus_txn (s : State) : s.forgetBusStatus.txn = s.txn := rfl
@[simp] theorem State.forgetBusStatus_chip4 (s : State) : s.forgetBusStatus.chip4 = s.chip4 := rfl
@[simp] theorem State.forgetBusStatus_chip6 (s : State) : s.forgetBusStatus.chip6 = s.chip6 := rfl

/-! ### The environment's move -/

theorem State.nextInputs_forgetBusStatus (s : State) :
    s.forgetBusStatus.nextInputs = s.nextInputs.forgetBusStatus := by
  obtain ⟨cfg, seq, inputs, schedule, txn, chip4, chip6⟩ := s
  cases schedule <;> rfl

theorem State.powerCycle4_forgetBusStatus (s : State) :
    s.forgetBusStatus.powerCycle4 = s.powerCycle4.forgetBusStatus := by
  unfold State.powerCycle4
  rw [apply_ite State.forgetBusStatus]
  rfl

theorem State.powerCycle6_forgetBusStatus (s : State) :
    s.forgetBusStatus.powerCycle6 = s.powerCycle6.forgetBusStatus := by
  unfold State.powerCycle6
  rw [apply_ite State.forgetBusStatus]
  rfl

theorem State.sample_forgetBusStatus (s : State) : s.forgetBusStatus.sample = s.sample.forgetBusStatus := by
  simp only [State.sample, State.nextInputs_forgetBusStatus, State.powerCycle4_forgetBusStatus,
    State.powerCycle6_forgetBusStatus]

/-! ### Acceptance -/

theorem offer_forgetBusStatus (s : State) (r : Result) :
    offer s.forgetBusStatus (mapNext State.forgetBusStatus r) = mapNext State.forgetBusStatus (offer s r) := by
  unfold offer
  rw [apply_ite (mapNext State.forgetBusStatus)]
  rfl

theorem ifInitDone_forgetBusStatus (s : State) (r : Result) :
    ifInitDone s.forgetBusStatus (mapNext State.forgetBusStatus r) =
      mapNext State.forgetBusStatus (ifInitDone s r) := by
  unfold ifInitDone
  rw [apply_ite (mapNext State.forgetBusStatus)]
  rfl

theorem ifRngInRange_forgetBusStatus (s : State) (r : Result) :
    ifRngInRange s.forgetBusStatus (mapNext State.forgetBusStatus r) =
      mapNext State.forgetBusStatus (ifRngInRange s r) := by
  unfold ifRngInRange
  rw [apply_ite (mapNext State.forgetBusStatus)]
  rfl

/-- A command that may run whenever the bus is open. -/
theorem offer_accept_forgetBusStatus (s : State) (w : CmdWord) :
    offer s.forgetBusStatus (ifInitDone s.forgetBusStatus (accept w 0 s.forgetBusStatus)) =
      mapNext State.forgetBusStatus (offer s (ifInitDone s (accept w 0 s))) := by
  rw [← offer_forgetBusStatus, ← ifInitDone_forgetBusStatus]
  rfl

theorem exec_forgetBusStatus (i : Instr) (s : State) :
    exec i s.forgetBusStatus = mapNext State.forgetBusStatus (exec i s) := by
  cases i
  case init => exact offer_forgetBusStatus s (acceptInit _ s)
  case wtext | rstdisp | setbrt => exact offer_accept_forgetBusStatus s _
  case wrand dc ign =>
    rw [exec, execWrand, exec, execWrand, ← offer_forgetBusStatus, ← ifInitDone_forgetBusStatus,
      ← ifRngInRange_forgetBusStatus]
    rfl
  case illegal0 | illegal6 | illegal7 | illegal8 | illegal9 | illegalA | illegalB | illegalC | illegalD | illegalE |
      illegalF => exact offer_forgetBusStatus s (reject .illegal s)
  all_goals rfl

/-! ### Emission -/

theorem carryByte_forgetBusStatus (b : Byte) (o : OpenTxn) (s : State) :
    carryByte b o s.forgetBusStatus = mapNext State.forgetBusStatus (carryByte b o s) := by
  simp only [carryByte, State.forgetBusStatus_cfg, State.forgetBusStatus_chip4, State.forgetBusStatus_chip6]
  split <;> rfl

theorem carry_forgetBusStatus (e : Event) (s : State) :
    carry e s.forgetBusStatus = mapNext State.forgetBusStatus (carry e s) := by
  cases e with
  | start a => rfl
  | stop => rfl
  | byte b =>
    rw [carry, carry, State.forgetBusStatus_txn]
    cases s.txn with
    | none => rfl
    | some o => exact carryByte_forgetBusStatus b (o.cutUnless s.inputs.deliver) s

theorem emit_forgetBusStatus (s : State) : emit s.forgetBusStatus = mapNext State.forgetBusStatus (emit s) := by
  have hpresented : s.forgetBusStatus.presented = s.presented := rfl
  rw [emit, emit, hpresented]
  cases s.presented with
  | none => rfl
  | some e =>
    simp only [carry_forgetBusStatus]
    cases carry e s <;> rfl

/-! ### The sequencer's step -/

theorem sequencerPhase_forgetBusStatus (s : State) :
    sequencerPhase s.forgetBusStatus = mapNext State.forgetBusStatus (sequencerPhase s) := by
  unfold sequencerPhase
  simp only [apply_ite (mapNext State.forgetBusStatus), ← emit_forgetBusStatus, ← exec_forgetBusStatus]
  rfl

/-- Settles O48: forgetting commutes with the environment's move and with the sequencer's part. -/
theorem busStatusIsIgnored : Obligations.BusStatusIsIgnored := by
  intro s
  rw [step_eq, step_eq, State.sample_forgetBusStatus, sequencerPhase_forgetBusStatus]

end Sys2Proof.Machine
end

section
/-! SUPPORT. The fields of the words the encoder builds, and the bytes of a word read back (spec/20_memory.md R56,
spec/30_encoding.md R70 to R77, R81). -/
namespace Sys2Proof.Machine
open Laws.TableRow (opField_wordOp opField_wordD opField_wordB opField_wordT)

/-! ### The bytes of a word (R56) -/

/-- The byte at bit `lo` lengthens a slice that begins right above it. -/
theorem extractLsb'_append_byte (w : CmdWord) (lo n : Nat) :
    w.extractLsb' (lo + 8) n ++ w.extractLsb' lo 8 = w.extractLsb' lo (n + 8) :=
  BitVec.extractLsb'_append_extractLsb'_eq_extractLsb' rfl

theorem append_bytes (w : CmdWord) :
    w.extractLsb' 56 8 ++ w.extractLsb' 48 8 ++ w.extractLsb' 40 8 ++ w.extractLsb' 32 8 ++ w.extractLsb' 24 8 ++
      w.extractLsb' 16 8 ++ w.extractLsb' 8 8 ++ w.extractLsb' 0 8 = w := by
  rw [extractLsb'_append_byte w 48, extractLsb'_append_byte w 40, extractLsb'_append_byte w 32,
    extractLsb'_append_byte w 24, extractLsb'_append_byte w 16, extractLsb'_append_byte w 8,
    extractLsb'_append_byte w 0]
  exact BitVec.extractLsb'_eq_self

theorem decode_wordBytes (w : CmdWord) : decode (wordBytes w) = .instr (decodeCmd w) := by
  rw [wordBytes, decode, append_bytes]

/-! ### The fields of a word (R72 to R76) -/

/-- A slice above the field `y` is a slice of what stands above it. -/
theorem extractLsb'_above {v n k m : Nat} {x : BitVec v} (y : BitVec n) {z : BitVec m} (h : x.extractLsb' k m = z) :
    (x ++ y).extractLsb' (k + n) m = z := by
  rw [BitVec.extractLsb'_append_eq_of_le (Nat.le_add_left n k), Nat.add_sub_cancel, h]

theorem extractLsb'_wordOp (op : BitVec 4) (rest : BitVec 60) : (wordOp op rest).extractLsb' 4 60 = rest :=
  BitVec.extractLsb'_append_eq_left

theorem fields_wordD (op : BitVec 4) (dc : BitVec 8) (ign : BitVec 52) :
    dcField (wordD op dc ign) = dc ∧ (wordD op dc ign).extractLsb' 12 52 = ign :=
  ⟨extractLsb'_above op BitVec.extractLsb'_append_eq_right, extractLsb'_above op BitVec.extractLsb'_append_eq_left⟩

theorem fields_wordB (op : BitVec 4) (dc : BitVec 8) (lo : BitVec 4) (pct : BitVec 16) (hi : BitVec 32) :
    dcField (wordB op dc lo pct hi) = dc ∧ lenField (wordB op dc lo pct hi) = lo ∧
      pctField (wordB op dc lo pct hi) = pct ∧ (wordB op dc lo pct hi).extractLsb' 32 32 = hi :=
  ⟨extractLsb'_above op BitVec.extractLsb'_append_eq_right,
    extractLsb'_above op (extractLsb'_above dc BitVec.extractLsb'_append_eq_right),
    extractLsb'_above op (extractLsb'_above dc (extractLsb'_above lo BitVec.extractLsb'_append_eq_right)),
    extractLsb'_above op (extractLsb'_above dc (extractLsb'_above lo BitVec.extractLsb'_append_eq_left))⟩

section
variable (op : BitVec 4) (dc : BitVec 8) (len : BitVec 4) (c0 c1 c2 c3 c4 c5 : Byte)

theorem fields_wordT :
    dcField (wordT op dc len c0 c1 c2 c3 c4 c5) = dc ∧ lenField (wordT op dc len c0 c1 c2 c3 c4 c5) = len :=
  ⟨extractLsb'_above op BitVec.extractLsb'_append_eq_right,
    extractLsb'_above op (extractLsb'_above dc BitVec.extractLsb'_append_eq_right)⟩

/-- A character slot of a word of format T is a slice of the six slots alone. -/
theorem charField_wordT_slots {i : Nat} {c : Byte}
    (h : (c5 ++ c4 ++ c3 ++ c2 ++ c1 ++ c0).extractLsb' (8 * i) 8 = c) :
    charField (wordT op dc len c0 c1 c2 c3 c4 c5) i = c := by
  rw [charField, Nat.add_comm]
  exact extractLsb'_above (k := 8 * i + 12) op (extractLsb'_above (k := 8 * i + 4) dc (extractLsb'_above len h))

theorem charField_wordT :
    charField (wordT op dc len c0 c1 c2 c3 c4 c5) 0 = c0 ∧ charField (wordT op dc len c0 c1 c2 c3 c4 c5) 1 = c1 ∧
    charField (wordT op dc len c0 c1 c2 c3 c4 c5) 2 = c2 ∧ charField (wordT op dc len c0 c1 c2 c3 c4 c5) 3 = c3 ∧
    charField (wordT op dc len c0 c1 c2 c3 c4 c5) 4 = c4 ∧ charField (wordT op dc len c0 c1 c2 c3 c4 c5) 5 = c5 := by
  refine ⟨?_, ?_, ?_, ?_, ?_, ?_⟩ <;> apply charField_wordT_slots
  · exact BitVec.extractLsb'_append_eq_right
  · exact extractLsb'_above c0 BitVec.extractLsb'_append_eq_right
  · exact extractLsb'_above c0 (extractLsb'_above c1 BitVec.extractLsb'_append_eq_right)
  · exact extractLsb'_above c0 (extractLsb'_above c1 (extractLsb'_above c2 BitVec.extractLsb'_append_eq_right))
  · exact extractLsb'_above c0 (extractLsb'_above c1 (extractLsb'_above c2 (extractLsb'_above c3
      BitVec.extractLsb'_append_eq_right)))
  · exact extractLsb'_above c0 (extractLsb'_above c1 (extractLsb'_above c2 (extractLsb'_above c3
      BitVec.extractLsb'_append_eq_left)))

theorem decodeCmd_wordT : decodeCmd (wordT 0x2 dc len c0 c1 c2 c3 c4 c5) = .wtext dc len c0 c1 c2 c3 c4 c5 := by
  obtain ⟨hdc, hlen⟩ := fields_wordT 0x2 dc len c0 c1 c2 c3 c4 c5
  obtain ⟨h0, h1, h2, h3, h4, h5⟩ := charField_wordT 0x2 dc len c0 c1 c2 c3 c4 c5
  rw [decodeCmd_wtext (opField_wordT _ _ _ _ _ _ _ _ _), hdc, hlen, h0, h1, h2, h3, h4, h5]

end

theorem decodeCmd_wordB (dc : BitVec 8) (lo : BitVec 4) (pct : BitVec 16) (hi : BitVec 32) :
    decodeCmd (wordB 0x5 dc lo pct hi) = .setbrt dc lo pct hi := by
  obtain ⟨hdc, hlo, hpct, hhi⟩ := fields_wordB 0x5 dc lo pct hi
  rw [decodeCmd_setbrt (opField_wordB _ _ _ _ _), hdc, hlo, hpct, hhi]

/-! ### Decoding what has been encoded -/

/-- Decoding the word that a command puts on its port gives the command back. -/
theorem decodeCmd_encoded {i : Instr} {w : CmdWord} (h : i.encoded = .word w) : decodeCmd w = i := by
  cases i
  case init ign =>
    cases h
    rw [decodeCmd_init (opField_wordOp _ _), extractLsb'_wordOp]
  case wtext =>
    cases h
    exact decodeCmd_wordT _ _ _ _ _ _ _ _
  case wrand dc ign =>
    cases h
    obtain ⟨hdc, hign⟩ := fields_wordD 0x3 dc ign
    rw [decodeCmd_wrand (opField_wordD _ _ _), hdc, hign]
  case rstdisp dc ign =>
    cases h
    obtain ⟨hdc, hign⟩ := fields_wordD 0x4 dc ign
    rw [decodeCmd_rstdisp (opField_wordD _ _ _), hdc, hign]
  case setbrt =>
    cases h
    exact decodeCmd_wordB _ _ _ _
  case illegal0 | illegal6 | illegal7 | illegal8 | illegal9 | illegalA | illegalB | illegalC | illegalD | illegalE |
      illegalF =>
    cases h
    simp [decodeCmd, opField_wordOp, extractLsb'_wordOp]
  all_goals cases h

/-- A code that is no digit's selects no glyph of its own (R81, R103). -/
theorem decodeLut_blank {c : Byte} (h : isDigitCode c = false) : decodeLut c = .glyphBlank c := by
  unfold decodeLut
  split
  case h_11 => rfl
  all_goals
    next hc => simp [isDigitCode, BitVec.le_def, hc] at h

/-- Decoding the code that a well-formed lookup puts on its port gives the lookup back. -/
theorem decodeLut_encoded {i : Instr} {c : Byte} (hwf : i.wellFormed = true) (h : i.encoded = .code c) :
    decodeLut c = i := by
  cases i
  case glyphBlank =>
    cases h
    exact decodeLut_blank (by simpa [Instr.wellFormed] using hwf)
  case glyph0 | glyph1 | glyph2 | glyph3 | glyph4 | glyph5 | glyph6 | glyph7 | glyph8 | glyph9 =>
    cases h
    rfl
  all_goals cases h

/-- Settles O2: eight bytes are read back as the command's word and one byte as the lookup's code, and either port
decodes what it was given. -/
theorem decodeOfEncode : Obligations.DecodeOfEncode := by
  intro i hwf
  unfold encode
  cases h : i.encoded with
  | word w => exact (decode_wordBytes w).trans (congrArg _ (decodeCmd_encoded h))
  | code c => exact congrArg Decoded.instr (decodeLut_encoded hwf h)

/-! ### The presented word (R160) -/

theorem State.idled_active (s : State) : s.idled.seq.active = false := by
  unfold State.idled
  split
  · rfl
  · next h => simpa using h

/-- After State.presentWord the environment's move puts the word on the port and does nothing else. -/
theorem State.sample_presentWord (s : State) (w : CmdWord) :
    (s.presentWord w).sample =
      (s.idled.withInputs { s.inputs.quiet with cmdValid := true, cmdWord := w }).withSchedule s.schedule := rfl

/-- Settles O26: the presented word decodes to one instruction, and State.presentWord leaves an idle block out of
reset to which the word is presented. -/
theorem stepRunsThePresentedCommand : Obligations.StepRunsThePresentedCommand := by
  have hrun (s : State) (i : Instr) (hrst : s.sample.inputs.rst = false) (hidle : s.sample.seq.active = false)
      (hvalid : s.sample.inputs.cmdValid = true) (hdec : decode (wordBytes s.sample.inputs.cmdWord) = .instr i) :
      step s = exec i s.sample := by
    rw [decode_wordBytes] at hdec
    rw [step_eq, sequencerPhase_presented hrst hidle hvalid, Decoded.instr.inj hdec]
  refine ⟨hrun, fun s w i hdec => hrun _ i ?_ ?_ ?_ ?_⟩ <;> rw [State.sample_presentWord]
  · rfl
  · exact s.idled_active
  · rfl
  · exact hdec

end Sys2Proof.Machine
end

section
/-! SUPPORT. A command's events as whole transactions (spec/20_memory.md R52, R54, spec/41_sequencer_commands.md
R121, R125). -/
namespace Sys2Proof.Machine

/-- The transactions a command with the digit count `dc` may emit: to one of the two chips, in one of five forms. -/
def KnownTxn (cfg : Config) (dc : BitVec 8) (t : BusAddr × List Byte) : Prop :=
  (t.1 = cfg.addr4 ∨ t.1 = cfg.addr6) ∧
    ((∃ data, t.2 = 0x01 :: data ∧ data.length = digitCount dc) ∨
     (∃ b, t.2 = [0x0C, b]) ∨ t.2 = [0x0D, 0x0B] ∨ (∃ d : Byte, d ≤ 0x80 ∧ t.2 = [0x19, d]) ∨
     (∃ b, t.2 = [0xFF, b]))

/-- The events are those of known transactions, each of them whole. -/
def WholeTxns (cfg : Config) (dc : BitVec 8) (es : List Event) : Prop :=
  ∃ txns : List (BusAddr × List Byte),
    es = (txns.map fun (a, bs) => txnEvents a bs).flatten ∧ ∀ t ∈ txns, KnownTxn cfg dc t

theorem wholeTxns_nil (cfg : Config) (dc : BitVec 8) : WholeTxns cfg dc [] := ⟨[], rfl, nofun⟩

theorem WholeTxns.append {cfg : Config} {dc : BitVec 8} {es fs : List Event} (hes : WholeTxns cfg dc es)
    (hfs : WholeTxns cfg dc fs) : WholeTxns cfg dc (es ++ fs) := by
  obtain ⟨ts, rfl, hts⟩ := hes
  obtain ⟨us, rfl, hus⟩ := hfs
  refine ⟨ts ++ us, by simp, fun t ht => ?_⟩
  exact (List.mem_append.mp ht).elim (hts t) (hus t)

theorem wholeTxns_txnEvents {cfg : Config} {dc : BitVec 8} {a : BusAddr} {bs : List Byte}
    (h : KnownTxn cfg dc (a, bs)) : WholeTxns cfg dc (txnEvents a bs) :=
  ⟨[(a, bs)], (List.append_nil _).symm, by simpa using h⟩

theorem busAddr_eq_or (cfg : Config) (dc : BitVec 8) : busAddr cfg dc = cfg.addr4 ∨ busAddr cfg dc = cfg.addr6 := by
  unfold busAddr
  cases target dc
  · exact .inl rfl
  · exact .inr rfl

/-- The duty byte is at most `DUTY_MAX`: the percent is clamped to 100 (R123). -/
theorem duty_le (p : Int) : duty p ≤ 0x80 := by
  have hclamp : (clamp p 0 100).toNat ≤ 100 := by
    unfold clamp
    omega
  have hquot : (64 * (clamp p 0 100).toNat + 25) / 50 ≤ 128 := by omega
  rw [duty, BitVec.le_def, BitVec.toNat_ofNat]
  exact (Nat.mod_le _ _).trans hquot

/-! ### The five transactions (R130 to R134) -/

section
variable (cfg : Config) (dc : BitVec 8)

theorem wholeTxns_stage (len : Nat) (cs : Vector Byte 6) : WholeTxns cfg dc (stage cfg dc len cs) :=
  have hlength : (stagedBytes cfg (digitCount dc) len cs).length = digitCount dc :=
    (stagedBytes_length _ _ _ _).trans (Nat.min_eq_left (digitCount_le_six dc))
  wholeTxns_txnEvents ⟨busAddr_eq_or cfg dc, .inl ⟨_, rfl, hlength⟩⟩

theorem wholeTxns_commit : WholeTxns cfg dc (commit cfg dc) :=
  wholeTxns_txnEvents ⟨busAddr_eq_or cfg dc, .inr (.inl ⟨_, rfl⟩)⟩

theorem wholeTxns_setCur {a : BusAddr} (ha : a = cfg.addr4 ∨ a = cfg.addr6) : WholeTxns cfg dc (setCur a CUR_MAX) :=
  wholeTxns_txnEvents ⟨ha, .inr (.inr (.inl rfl))⟩

theorem wholeTxns_setPwm (p : Int) : WholeTxns cfg dc (setPwm cfg dc p) :=
  wholeTxns_txnEvents ⟨busAddr_eq_or cfg dc, .inr (.inr (.inr (.inl ⟨_, duty_le p, rfl⟩)))⟩

theorem wholeTxns_resetTxn : WholeTxns cfg dc (resetTxn cfg dc) :=
  wholeTxns_txnEvents ⟨busAddr_eq_or cfg dc, .inr (.inr (.inr (.inr ⟨_, rfl⟩)))⟩

end

/-- The events of a decoded word, whose digit count is the word's DC field. -/
theorem wholeTxns_events (cfg : Config) (w : CmdWord) (r : RandomWord) :
    WholeTxns cfg (dcField w) (events cfg (decodeCmd w) r) := by
  unfold decodeCmd
  split
  case h_2 => exact (wholeTxns_setCur _ _ (.inl rfl)).append (wholeTxns_setCur _ _ (.inr rfl))
  case h_3 => exact (wholeTxns_stage _ _ _ _).append (wholeTxns_commit _ _)
  case h_4 => exact (wholeTxns_stage _ _ _ _).append (wholeTxns_commit _ _)
  case h_5 => exact (wholeTxns_resetTxn _ _).append (wholeTxns_setCur _ _ (busAddr_eq_or _ _))
  case h_6 => exact wholeTxns_setPwm _ _ _
  all_goals exact wholeTxns_nil _ _

/-- Settles O17: each command's list is put together from the five transactions. -/
theorem commandsEmitWholeTransactions : Obligations.CommandsEmitWholeTransactions :=
  wholeTxns_events

end Sys2Proof.Machine
end

section
/-! SUPPORT. The event that a step hands over is the presented one (spec/41_sequencer_commands.md R162), and the bus
is as it needs it (spec/20_memory.md R61). -/
namespace Sys2Proof.Machine

/-- An event is handed over in the step from `s` when, after the environment's move, it is presented by an active
block out of reset and the bus master accepts it (R22, R162). -/
theorem State.handedOver_eq_some {s : State} {e : Event} :
    s.handedOver = some e ↔ s.sample.inputs.rst = false ∧ s.sample.seq.active = true ∧
      s.sample.inputs.evReady = true ∧ s.sample.presented = some e := by
  simp [State.handedOver, State.drivenEvent, State.evValid, and_assoc, and_left_comm]

/-- An event that is handed over may come next after those that have left the bus master's transaction open. -/
theorem State.Inv.permits_handedOver {s : State} {e : Event} (hs : s.Inv) (h : s.handedOver = some e) :
    Permits s.pendingTxn e ∧ s.txn.isSome = s.pendingTxn.isSome := by
  obtain ⟨hcfg, hseq⟩ := s.sample_frame
  obtain ⟨-, -, hpending, -⟩ := State.account_congr hcfg hseq
  obtain ⟨-, hactive, -, he⟩ := State.handedOver_eq_some.mp h
  exact ⟨hpending ▸ State.presented_permits hactive he, (s.busAgrees_iff.mp hs.bus).txn_isSome⟩

/-- Settles O34: what the sequencer's account permits, the bus master's transaction permits. -/
theorem transactionsAreNeverInterleaved : Obligations.TransactionsAreNeverInterleaved := by
  intro s hs
  refine ⟨fun a h => ?_, fun b h => ?_, fun h => ?_⟩ <;> obtain ⟨hpermits, hopen⟩ := hs.permits_handedOver h
  · have hnone : s.pendingTxn = none := hpermits
    simpa [hnone] using hopen
  · obtain ⟨a, bytes, hsome, -⟩ := hpermits
    simpa [hsome] using hopen
  · exact hopen.trans hpermits

end Sys2Proof.Machine
end

section
/-! SUPPORT. Transactions that a chip receives (spec/20_memory.md R59, spec/60_exceptions.md R186 to R192). -/
namespace Sys2Proof.Machine

theorem Chip.receiveData_append (d : ChipDefaults) (xs ys : List Byte) (c : Chip) :
    Chip.receiveData d (xs ++ ys) c = (Chip.receiveData d xs c).bind (Chip.receiveData d ys) := by
  induction xs generalizing c with
  | nil => rfl
  | cons x xs ih => simp only [List.cons_append, Chip.receiveData, Option.bind_assoc, ih]

/-! ### Staging (R187) -/

/-- The staged entries with the bytes `data` written over them from the first one on. -/
def overlay (data : List Byte) (stg : Vector Byte 6) : Vector Byte 6 :=
  Vector.ofFn fun i => (data[i.val]?).getD stg[i]

@[simp] theorem getElem_overlay (data : List Byte) (stg : Vector Byte 6) {i : Nat} (hi : i < 6) :
    (overlay data stg)[i] = (data[i]?).getD stg[i] := by
  simp [overlay]

theorem overlay_nil (stg : Vector Byte 6) : overlay [] stg = stg := Vector.ext fun i hi => by simp

/-- Writing the same bytes again changes no entry. -/
theorem overlay_overlay (data : List Byte) (stg : Vector Byte 6) : overlay data (overlay data stg) = overlay data stg :=
  Vector.ext fun i hi => by
    rw [getElem_overlay, getElem_overlay]
    cases data[i]? <;> rfl

/-- One more byte is written to the entry after those of the bytes before it. -/
theorem overlay_concat (data : List Byte) (b : Byte) (stg : Vector Byte 6) (h : data.length < 6) :
    overlay (data ++ [b]) stg = (overlay data stg).set data.length b :=
  Vector.ext fun i hi => by
    rw [getElem_overlay, Vector.getElem_set, getElem_overlay]
    obtain hlt | rfl | hgt := Nat.lt_trichotomy i data.length
    · simp [List.getElem?_append_left hlt, Nat.ne_of_gt hlt]
    · simp
    · simp [hgt, Nat.ne_of_lt hgt, Nat.le_of_lt hgt]

/-- The chip after a staging transaction with the data bytes `data`: they stand in the first entries, and the pointer
has moved on past the last of them. -/
def Chip.staged (c : Chip) (data : List Byte) : Chip :=
  { c with stg := overlay data c.stg, ptr := REG_DATA + BitVec.ofNat 8 data.length }

/-- Writing one of the staging registers (R187). -/
theorem Chip.writeReg_stg (d : ChipDefaults) {n : Nat} (hn : n < 6) (b : Byte) (c : Chip) :
    c.writeReg d (REG_DATA + BitVec.ofNat 8 n) b = some { c with stg := c.stg.set n b } := by
  have hreg : (REG_DATA + BitVec.ofNat 8 n).toNat = n + 1 := by
    rw [REG_DATA]
    bv_omega
  have hrange : 0x01 ≤ REG_DATA + BitVec.ofNat 8 n ∧ REG_DATA + BitVec.ofNat 8 n ≤ 0x06 := by
    rw [BitVec.le_def, BitVec.le_def, hreg]
    exact ⟨Nat.le_add_left 1 n, Nat.succ_le_of_lt hn⟩
  rw [Chip.writeReg, if_pos hrange, hreg, Nat.add_sub_cancel]
  simp [Vector.setIfInBounds, Vector.set, Array.setIfInBounds, hn]

theorem Chip.writeData_staged (d : ChipDefaults) (c : Chip) {data : List Byte} (b : Byte) (h : data.length < 6) :
    (c.staged data).writeData d b = some (c.staged (data ++ [b])) := by
  have hptr : (c.staged data).ptr = REG_DATA + BitVec.ofNat 8 data.length := rfl
  rw [Chip.writeData, hptr, Chip.writeReg_stg d h]
  simp [Chip.staged, overlay_concat _ _ _ h, BitVec.ofNat_add, BitVec.add_assoc]

theorem Chip.receiveAll_stage (d : ChipDefaults) (c : Chip) {data : List Byte} (h : data.length ≤ 6) :
    c.receiveAll d (REG_DATA :: data) = some (c.staged data) := by
  induction data using List.reverseRecOn with
  | nil => simp [Chip.staged, overlay_nil, Chip.receiveAll, Chip.receiveData]
  | append_singleton data b ih =>
    rw [List.length_append, List.length_singleton] at h
    have hdata := ih (by omega)
    rw [Chip.receiveAll] at hdata ⊢
    rw [Chip.receiveData_append, hdata, Option.bind_some, Chip.receiveData,
      Chip.writeData_staged d c b (by omega)]
    rfl

theorem Chip.staged_staged (c : Chip) (data : List Byte) : (c.staged data).staged data = c.staged data := by
  simp [Chip.staged, overlay_overlay]

/-- Settles O39: staging again writes the same entries, and a second write of the same byte to one of the other
registers has no effect. -/
theorem repeatedTransactionIsIdempotent : Obligations.RepeatedTransactionIsIdempotent := by
  intro d c bs hbs
  obtain ⟨data, rfl, hlength⟩ | ⟨b, rfl⟩ | ⟨b, rfl⟩ | ⟨b, rfl⟩ | ⟨b, rfl⟩ := hbs
  · refine ⟨c.staged data, Chip.receiveAll_stage d c hlength, ?_⟩
    exact (Chip.receiveAll_stage d _ hlength).trans (congrArg some (c.staged_staged data))
  · exact ⟨_, rfl, rfl⟩
  · exact ⟨_, rfl, rfl⟩
  · exact ⟨_, rfl, rfl⟩
  · exact ⟨_, rfl, rfl⟩

end Sys2Proof.Machine
end

section
/-! SUPPORT. What a step makes of a chip: a power cycle, then at most one byte that reaches it (spec/20_memory.md
R62, spec/60_exceptions.md R181, R186, R196). -/
namespace Sys2Proof.Machine

theorem State.sample_inputs (s : State) : s.sample.inputs = s.nextInputs.inputs := by
  obtain ⟨-, -, h4, -⟩ := s.nextInputs.powerCycle4_frame
  obtain ⟨-, -, h6, -⟩ := s.nextInputs.powerCycle4.powerCycle6_frame
  exact h6.trans h4

/-- The environment's move makes nothing of a chip but its power cycle. -/
theorem State.sample_chip (s : State) (u : DisplayTarget) :
    s.sample.chip u = if s.sample.inputs.cycles u then Chip.powerOn (s.cfg.defaults u) else s.chip u := by
  obtain ⟨hcfg, -, -, h4, h6⟩ := s.nextInputs_frame
  obtain ⟨hcfg', -, hinputs, -, h6'⟩ := s.nextInputs.powerCycle4_frame
  obtain ⟨-, -, -, -, h4'⟩ := s.nextInputs.powerCycle4.powerCycle6_frame
  rw [State.sample_inputs]
  cases u with
  | fourDigit =>
    refine h4'.trans (s.nextInputs.powerCycle4_chip4.trans ?_)
    rw [hcfg, h4]
    rfl
  | sixDigit =>
    refine s.nextInputs.powerCycle4.powerCycle6_chip6.trans ?_
    rw [hinputs, hcfg', hcfg, h6', h6]
    rfl

@[simp] theorem State.advance_chip (s : State) (u : DisplayTarget) : s.advance.chip u = s.chip u := by
  cases u <;> rfl

@[simp] theorem State.blockReset_chip (s : State) (u : DisplayTarget) : s.blockReset.chip u = s.chip u := by
  cases u <;> rfl

@[simp] theorem State.withSeq_chip (s : State) (q : Sequencer) (u : DisplayTarget) :
    (s.withSeq q).chip u = s.chip u := by
  cases u <;> rfl

@[simp] theorem State.withTxn_chip (s : State) (o : Option OpenTxn) (u : DisplayTarget) :
    (s.withTxn o).chip u = s.chip u := by
  cases u <;> rfl

/-- In the step that `carry` takes from `s` the chip of `u` receives the byte `b`, in the open transaction `o` (R181,
R186). -/
structure State.Receives (s : State) (u : DisplayTarget) (b : Byte) (o : OpenTxn) : Prop where
  txn : s.txn = some o
  addr : o.addr = s.cfg.addr u
  uncut : o.cut = false
  delivered : s.inputs.deliver = true

/-- Carrying an event leaves a chip alone unless the chip receives it as a byte. -/
theorem carry_chip {s t : State} {e : Event} (h : carry e s = .next t) (u : DisplayTarget) :
    t.chip u = s.chip u ∨ ∃ b o, e = .byte b ∧ s.Receives u b o ∧
      (s.chip u).receive (s.cfg.defaults u) o.ptrSet b = some (t.chip u) := by
  cases e with
  | start a => cases h; exact .inl (s.withTxn_chip _ u)
  | stop => cases h; exact .inl (s.withTxn_chip _ u)
  | byte b =>
    cases ho : s.txn with
    | none => simp [carry, ho] at h
    | some o =>
      simp only [carry, ho] at h
      obtain ⟨-, -, hhear⟩ := carryByte_next h
      have hear := hhear u
      cases hreach : (o.cutUnless s.inputs.deliver).reaches (s.cfg.addr u) with
      | false =>
        rw [hreach] at hear
        exact .inl (Option.some.inj hear).symm
      | true =>
        rw [hreach] at hear
        obtain ⟨haddr, hcut⟩ := (OpenTxn.reaches_iff _ _).mp hreach
        obtain ⟨huncut, hdelivered⟩ := Bool.or_eq_false_iff.mp hcut
        exact .inr ⟨b, o, rfl, ⟨ho, haddr, huncut, by simpa using hdelivered⟩, hear⟩

/-- A step leaves a chip as the environment's move made it, unless a byte is handed over that the chip receives. -/
theorem step_chip {s t : State} (h : step s = .next t) (u : DisplayTarget) :
    t.chip u = s.sample.chip u ∨ ∃ b o, s.handedOver = some (.byte b) ∧ s.sample.Receives u b o ∧
      (s.sample.chip u).receive (s.sample.cfg.defaults u) o.ptrSet b = some (t.chip u) := by
  rw [step_eq] at h
  obtain ⟨-, rfl⟩ | ⟨hrst, hactive, hready, e, v, he, hcarry, rfl⟩ | ⟨-, -, -, q, rfl⟩ | ⟨-, rfl⟩ :=
    sequencerPhase_next h
  · exact .inl (s.sample.blockReset_chip u)
  · rw [State.advance_chip]
    refine (carry_chip hcarry u).imp_right ?_
    rintro ⟨b, o, rfl, hreceives, hchip⟩
    exact ⟨b, o, State.handedOver_eq_some.mpr ⟨hrst, hactive, hready, he⟩, hreceives, hchip⟩
  · exact .inl (s.sample.withSeq_chip q u)
  · exact .inl rfl

/-- A register write changes what the chip shows only at the commit or the reset register (R188, R191). -/
theorem Chip.writeReg_live {d : ChipDefaults} {r b : Byte} {c c' : Chip} (h : c.writeReg d r b = some c')
    (hcommit : r ≠ REG_COMMIT) (hreset : r ≠ REG_RESET) : c'.live = c.live := by
  rw [Chip.writeReg, if_neg hcommit, if_neg hreset] at h
  split_ifs at h
  all_goals
    cases h
    rfl

/-- A byte changes what the chip shows only as data, at the commit or the reset register. -/
theorem Chip.receive_live {d : ChipDefaults} {p : Bool} {b : Byte} {c c' : Chip} (h : c.receive d p b = some c')
    (hlive : c'.live ≠ c.live) : p = true ∧ (c.ptr = REG_COMMIT ∨ c.ptr = REG_RESET) := by
  cases p with
  | false => cases h; exact absurd rfl hlive
  | true =>
    refine ⟨rfl, ?_⟩
    obtain ⟨x, hx, rfl⟩ := Option.map_eq_some_iff.mp h
    by_contra! hptr
    have hsame : x.live = c.live := Chip.writeReg_live hx hptr.1 hptr.2
    exact hlive hsame

/-- Settles O40: a chip that is not power-cycled changes only by a byte that it receives, and what it shows only by a
data byte at the commit or the reset register. -/
theorem liveChangesOnlyByCommitOrReset : Obligations.LiveChangesOnlyByCommitOrReset := by
  intro s t u h hlive
  rw [or_iff_not_imp_left, Bool.not_eq_true]
  intro hcycle
  have hchip : s.sample.chip u = s.chip u := by rw [State.sample_chip, hcycle]; rfl
  rw [← hchip] at hlive
  obtain hsame | ⟨b, o, hover, ⟨htxn, haddr, huncut, hdelivered⟩, hreceive⟩ := step_chip h u
  · exact absurd (congrArg Chip.live hsame) hlive
  · obtain ⟨hdata, hptr⟩ := Chip.receive_live hreceive hlive
    exact ⟨⟨b, o, hover, htxn, haddr.trans (by rw [s.sample_frame.1]), hdata, huncut, hdelivered⟩, hptr⟩

end Sys2Proof.Machine
end

section
/-! SUPPORT. A word is the encoding of what it decodes to, and its opcode alone says which command that is
(spec/30_encoding.md R70, R72 to R75, R79, R81). -/
namespace Sys2Proof.Machine
open Laws.TableRow (opField_wordOp opField_wordD opField_wordB opField_wordT)

/-! ### A word put together again from its fields (R72 to R75) -/

/-- Two slices that meet are one slice. -/
theorem extractLsb'_append_field {n : Nat} (w : CmdWord) (lo m : Nat) :
    w.extractLsb' (lo + m) n ++ w.extractLsb' lo m = w.extractLsb' lo (n + m) :=
  BitVec.extractLsb'_append_extractLsb'_eq_extractLsb' rfl

theorem wordOp_fields (w : CmdWord) : wordOp (opField w) (w.extractLsb' 4 60) = w :=
  (extractLsb'_append_field w 0 4).trans BitVec.extractLsb'_eq_self

theorem wordD_fields (w : CmdWord) : wordD (opField w) (dcField w) (w.extractLsb' 12 52) = w := by
  rw [wordD, dcField, extractLsb'_append_field w 4 8]
  exact wordOp_fields w

theorem wordB_fields (w : CmdWord) :
    wordB (opField w) (dcField w) (lenField w) (pctField w) (w.extractLsb' 32 32) = w := by
  rw [wordB, pctField, lenField, extractLsb'_append_field w 16 16, extractLsb'_append_field w 12 4]
  exact wordD_fields w

theorem wordT_fields (w : CmdWord) :
    wordT (opField w) (dcField w) (lenField w) (charField w 0) (charField w 1) (charField w 2) (charField w 3)
      (charField w 4) (charField w 5) = w := by
  simp only [wordT, charField, lenField]
  rw [extractLsb'_append_byte w 48, extractLsb'_append_byte w 40, extractLsb'_append_byte w 32,
    extractLsb'_append_byte w 24, extractLsb'_append_byte w 16, extractLsb'_append_field w 12 4]
  exact wordD_fields w

/-! ### Encoding what has been decoded -/

/-- The port of a decoded word carries that word. -/
theorem encoded_decodeCmd (w : CmdWord) : (decodeCmd w).encoded = .word w := by
  have hop {k : BitVec 4} (h : (opField w).toNat = k.toNat) : wordOp k (w.extractLsb' 4 60) = w := by
    rw [← BitVec.eq_of_toNat_eq h]
    exact wordOp_fields w
  unfold decodeCmd
  split
  case h_3 h =>
    rw [Instr.encoded, ← show opField w = 0x2 from BitVec.eq_of_toNat_eq h, wordT_fields]
  case h_4 h =>
    rw [Instr.encoded, ← show opField w = 0x3 from BitVec.eq_of_toNat_eq h, wordD_fields]
  case h_5 h =>
    rw [Instr.encoded, ← show opField w = 0x4 from BitVec.eq_of_toNat_eq h, wordD_fields]
  case h_6 h =>
    rw [Instr.encoded, ← show opField w = 0x5 from BitVec.eq_of_toNat_eq h, wordB_fields]
  case h_16 =>
    have hlast : (opField w).toNat = (0xF : BitVec 4).toNat := by
      have := (opField w).isLt
      grind
    exact congrArg Encoded.word (hop hlast)
  all_goals
    next h => exact congrArg Encoded.word (hop h)

theorem decodeCmd_wellFormed (w : CmdWord) : (decodeCmd w).wellFormed = true := by
  unfold decodeCmd
  split <;> rfl

/-- The port of a decoded code carries that code. -/
theorem encoded_decodeLut (c : Byte) : (decodeLut c).encoded = .code c := by
  unfold decodeLut
  split
  case h_11 => rfl
  all_goals
    next h => exact congrArg Encoded.code (BitVec.eq_of_toNat_eq h).symm

/-- A digit's code decodes to a lookup of its own, so the blank lookup carries none of the ten. -/
theorem decodeLut_wellFormed (c : Byte) : (decodeLut c).wellFormed = true := by
  by_cases hdigit : isDigitCode c = true
  · unfold decodeLut
    split
    case h_11 =>
      have hcode : 0x30 ≤ c.toNat ∧ c.toNat ≤ 0x39 := by simpa [isDigitCode, BitVec.le_def] using hdigit
      grind
    all_goals rfl
  · have hblank : isDigitCode c = false := by simpa using hdigit
    rw [decodeLut_blank hblank, Instr.wellFormed, hblank]
    rfl

/-- Settles O3: either port carries again what was decoded from it. -/
theorem encodeOfDecode : Obligations.EncodeOfDecode :=
  ⟨fun w => ⟨decodeCmd_wellFormed w, by rw [encode, encoded_decodeCmd]⟩,
    fun c => ⟨decodeLut_wellFormed c, by rw [encode, encoded_decodeLut]⟩⟩

/-! ### The opcode (R79) -/

/-- A word that decodes to `i` is what `i` puts on its port. -/
theorem encoded_of_decodeCmd {w : CmdWord} {i : Instr} (h : decodeCmd w = i) : i.encoded = .word w :=
  h ▸ encoded_decodeCmd w

theorem opField_cases (w : CmdWord) :
    opField w = 1 ∨ opField w = 2 ∨ opField w = 3 ∨ opField w = 4 ∨ opField w = 5 ∨
      (opField w = 0 ∨ 6 ≤ opField w) := by
  bv_omega

theorem decodeCmd_isIllegal {w : CmdWord} (h : opField w = 0 ∨ 6 ≤ opField w) : (decodeCmd w).isIllegal = true := by
  unfold decodeCmd
  split
  case h_2 | h_3 | h_4 | h_5 | h_6 => bv_omega
  all_goals rfl

theorem opField_of_isIllegal {w : CmdWord} (h : (decodeCmd w).isIllegal = true) :
    opField w = 0 ∨ 6 ≤ opField w := by
  obtain hop | hop | hop | hop | hop | hop := opField_cases w
  · rw [decodeCmd_init hop] at h; cases h
  · rw [decodeCmd_wtext hop] at h; cases h
  · rw [decodeCmd_wrand hop] at h; cases h
  · rw [decodeCmd_rstdisp hop] at h; cases h
  · rw [decodeCmd_setbrt hop] at h; cases h
  · exact hop

/-- Settles O4: the opcode gives the constructor, and a decoded command's word carries the constructor's opcode. -/
theorem opcodeAloneSelectsCommand : Obligations.OpcodeAloneSelectsCommand := by
  refine fun w => ⟨⟨fun h => ⟨_, decodeCmd_init h⟩, ?_⟩,
    ⟨fun h => ⟨_, _, _, _, _, _, _, _, decodeCmd_wtext h⟩, ?_⟩,
    ⟨fun h => ⟨_, _, decodeCmd_wrand h⟩, ?_⟩, ⟨fun h => ⟨_, _, decodeCmd_rstdisp h⟩, ?_⟩,
    ⟨fun h => ⟨_, _, _, _, decodeCmd_setbrt h⟩, ?_⟩, ⟨decodeCmd_isIllegal, opField_of_isIllegal⟩⟩
  · rintro ⟨ign, h⟩
    cases encoded_of_decodeCmd h
    exact opField_wordOp _ _
  · rintro ⟨dc, len, c0, c1, c2, c3, c4, c5, h⟩
    cases encoded_of_decodeCmd h
    exact opField_wordT _ _ _ _ _ _ _ _ _
  · rintro ⟨dc, ign, h⟩
    cases encoded_of_decodeCmd h
    exact opField_wordD _ _ _
  · rintro ⟨dc, ign, h⟩
    cases encoded_of_decodeCmd h
    exact opField_wordD _ _ _
  · rintro ⟨dc, lo, pct, hi, h⟩
    cases encoded_of_decodeCmd h
    exact opField_wordB _ _ _ _ _

end Sys2Proof.Machine
end

section
/-! SUPPORT. The bits a format ignores, and the character slots at or after LEN, reach neither the events nor
anything an acceptance does but the latched word (spec/30_encoding.md R75, R78). -/
namespace Sys2Proof.Machine

/-! ### The events -/

/-- Staging reads the slots before LEN alone. -/
theorem stagedBytes_congr (cfg : Config) (n : Nat) {len : Nat} {cs ds : Vector Byte 6}
    (h : ∀ (i : Nat) (hi : i < 6), i < len → cs[i] = ds[i]) :
    stagedBytes cfg n len cs = stagedBytes cfg n len ds := by
  refine List.ext_getElem (by simp [stagedBytes_length]) fun i hi _ => ?_
  have hsix : i < 6 := by rw [stagedBytes_length] at hi; omega
  by_cases hlen : i < len
  · simp [stagedBytes, hlen, h i hsix hlen]
  · simp [stagedBytes, hlen]

theorem slotIfPresent_of_lt {len : BitVec 4} {i : Nat} (h : i < len.toNat) (c : Byte) : slotIfPresent len i c = c :=
  if_pos h

theorem eventsWtext_slotIfPresent (cfg : Config) (dc : BitVec 8) (len : BitVec 4) (c0 c1 c2 c3 c4 c5 : Byte) :
    eventsWtext cfg dc len (slots (slotIfPresent len 0 c0) (slotIfPresent len 1 c1) (slotIfPresent len 2 c2)
      (slotIfPresent len 3 c3) (slotIfPresent len 4 c4) (slotIfPresent len 5 c5)) =
    eventsWtext cfg dc len (slots c0 c1 c2 c3 c4 c5) := by
  rw [eventsWtext, eventsWtext, stage, stage, stagedBytes_congr cfg _ fun i hi hlen => ?_]
  match i, hi with
  | 0, _ | 1, _ | 2, _ | 3, _ | 4, _ | 5, _ => exact slotIfPresent_of_lt hlen _

theorem events_clearIgnored (cfg : Config) (i : Instr) (r : RandomWord) :
    events cfg i.clearIgnored r = events cfg i r := by
  cases i
  case wtext => exact eventsWtext_slotIfPresent _ _ _ _ _ _ _ _ _
  all_goals rfl

/-! ### The acceptance step -/

section
variable (f : State → State) {r r' : Result} (h : mapNext f r = mapNext f r') (s : State)
include h

theorem mapNext_offer_congr : mapNext f (offer s r) = mapNext f (offer s r') := by
  unfold offer
  split
  · exact h
  · rfl

theorem mapNext_ifInitDone_congr : mapNext f (ifInitDone s r) = mapNext f (ifInitDone s r') := by
  unfold ifInitDone
  split
  · exact h
  · rfl

theorem mapNext_ifRngInRange_congr : mapNext f (ifRngInRange s r) = mapNext f (ifRngInRange s r') := by
  unfold ifRngInRange
  split
  · exact h
  · rfl

end

/-- Two words that are accepted with the same random value leave states that differ in the latched word alone. -/
theorem accept_forgetCmd (w w' : CmdWord) (r : RandomWord) (s : State) :
    mapNext State.forgetCmd (accept w r s) = mapNext State.forgetCmd (accept w' r s) := rfl

theorem acceptInit_forgetCmd (w w' : CmdWord) (s : State) :
    mapNext State.forgetCmd (acceptInit w s) = mapNext State.forgetCmd (acceptInit w' s) := rfl

theorem offer_accept_forgetCmd (w w' : CmdWord) (s : State) :
    mapNext State.forgetCmd (offer s (ifInitDone s (accept w 0 s))) =
      mapNext State.forgetCmd (offer s (ifInitDone s (accept w' 0 s))) :=
  mapNext_offer_congr _ (mapNext_ifInitDone_congr _ (accept_forgetCmd w w' 0 s) s) s

theorem exec_clearIgnored (i : Instr) (s : State) :
    mapNext State.forgetCmd (exec i.clearIgnored s) = mapNext State.forgetCmd (exec i s) := by
  cases i
  case init => exact mapNext_offer_congr _ (acceptInit_forgetCmd _ _ s) s
  case wtext | rstdisp | setbrt => exact offer_accept_forgetCmd _ _ s
  case wrand =>
    exact mapNext_offer_congr _ (mapNext_ifInitDone_congr _
      (mapNext_ifRngInRange_congr _ (accept_forgetCmd _ _ _ s) s) s) s
  all_goals rfl

/-- Settles O5: the events read the operands alone, and an acceptance keeps the word in `S.cmd` alone. -/
theorem ignoredBitsHaveNoEffect : Obligations.IgnoredBitsHaveNoEffect :=
  fun i s r => ⟨events_clearIgnored s.cfg i r, exec_clearIgnored i s⟩

end Sys2Proof.Machine
end

section
/-! SUPPORT. The word that each line of a listing encodes, and the lines that the assembler refuses
(spec/30_encoding.md R82, R83, R85). -/
namespace Sys2Proof.Machine
open Laws.TableRow (opField_wordT opField_wordB)

/-! ### The operands -/

theorem dcOperand_eq_some {dc : Nat} {d : BitVec 8} : dcOperand dc = some d ↔ dc = d.toNat := by
  have hd := d.isLt
  by_cases h : dc ≤ 255
  · rw [dcOperand, if_pos h, Option.some.injEq, BitVec.toNat_eq, BitVec.toNat_ofNat, Nat.mod_eq_of_lt (by omega)]
  · rw [dcOperand, if_neg h]
    exact iff_of_false nofun (by omega)

theorem dcOperand_eq_none {dc : Nat} : dcOperand dc = none ↔ 255 < dc := by
  simp [dcOperand]

@[simp] theorem dcOperand_toNat (d : BitVec 8) : dcOperand d.toNat = some d := dcOperand_eq_some.mpr rfl

/-- A word of format D without ignored bits, as a number. -/
theorem wordD_zero (op : BitVec 4) (d : BitVec 8) : wordD op d 0 = BitVec.ofNat 64 (16 * d.toNat + op.toNat) := by
  apply BitVec.eq_of_toNat_eq
  have hd := d.isLt
  have hop := op.isLt
  have hlow : (0 : BitVec 52).toNat <<< 8 ||| d.toNat = d.toNat := by simp
  rw [wordD, BitVec.toNat_append, BitVec.toNat_append, hlow, ← Nat.shiftLeft_add_eq_or_of_lt hop, Nat.shiftLeft_eq,
    BitVec.toNat_ofNat]
  omega

/-! ### The lines (R82) -/

theorem assemble_wtext_eq_some {dc : Nat} {text : List Byte} {w : CmdWord} :
    assemble (.wtext dc text) = some w ↔ text.length ≤ 6 ∧ ∃ d, dc = d.toNat ∧
      wordT 0x2 d (BitVec.ofNat 4 text.length) (textSlot text 0) (textSlot text 1) (textSlot text 2) (textSlot text 3)
        (textSlot text 4) (textSlot text 5) = w := by
  simp [assemble, assembleText, dcOperand_eq_some]

theorem assemble_setbrt_eq_some {dc : Nat} {pct : Int} {w : CmdWord} :
    assemble (.setbrt dc pct) = some w ↔ (-32768 ≤ pct ∧ pct ≤ 32767) ∧ ∃ d, dc = d.toNat ∧
      wordB 0x5 d 0 (BitVec.ofInt 16 pct) 0 = w := by
  simp [assemble, dcOperand_eq_some]

/-- The two lines that carry a digit count alone. -/
theorem map_dcOperand_wordD (op : BitVec 4) (dc : Nat) :
    (dcOperand dc).map (fun d => wordD op d 0) =
      if dc ≤ 255 then some (BitVec.ofNat 64 (16 * dc + op.toNat)) else none := by
  by_cases h : dc ≤ 255
  · rw [dcOperand, if_pos h, if_pos h, Option.map_some, wordD_zero, BitVec.toNat_ofNat,
      Nat.mod_eq_of_lt (by omega)]
  · rw [dcOperand, if_neg h, if_neg h, Option.map_none]

theorem wtext_refused (dc : Nat) (text : List Byte) :
    assemble (.wtext dc text) = none ↔ 255 < dc ∨ 6 < text.length := by
  simp [assemble, assembleText, dcOperand_eq_none, or_iff_not_imp_right]

theorem setbrt_refused (dc : Nat) (pct : Int) :
    assemble (.setbrt dc pct) = none ↔ 255 < dc ∨ pct < -32768 ∨ 32767 < pct := by
  by_cases h : -32768 ≤ pct ∧ pct ≤ 32767
  · rw [assemble, if_pos h, Option.map_eq_none_iff, dcOperand_eq_none]
    omega
  · rw [assemble, if_neg h]
    exact iff_of_true rfl (by omega)

theorem charField_of_wtext {d : BitVec 8} {len : BitVec 4} {text : List Byte} {i : Nat} (hi : i < 6) :
    charField (wordT 0x2 d len (textSlot text 0) (textSlot text 1) (textSlot text 2) (textSlot text 3)
      (textSlot text 4) (textSlot text 5)) i = (text[i]?).getD 0 := by
  obtain ⟨h0, h1, h2, h3, h4, h5⟩ := charField_wordT 0x2 d len (textSlot text 0) (textSlot text 1) (textSlot text 2)
    (textSlot text 3) (textSlot text 4) (textSlot text 5)
  match i, hi with
  | 0, _ => exact h0
  | 1, _ => exact h1
  | 2, _ => exact h2
  | 3, _ => exact h3
  | 4, _ => exact h4
  | 5, _ => exact h5

theorem wtext_fields {dc : Nat} {text : List Byte} {w : CmdWord} (h : assemble (.wtext dc text) = some w) :
    opField w = 2 ∧ (dcField w).toNat = dc ∧ (lenField w).toNat = text.length ∧
      ∀ i < 6, charField w i = (text[i]?).getD 0 := by
  obtain ⟨hlen, d, rfl, rfl⟩ := assemble_wtext_eq_some.mp h
  obtain ⟨hdc, hlenField⟩ := fields_wordT 0x2 d (BitVec.ofNat 4 text.length) (textSlot text 0) (textSlot text 1)
    (textSlot text 2) (textSlot text 3) (textSlot text 4) (textSlot text 5)
  refine ⟨opField_wordT _ _ _ _ _ _ _ _ _, by rw [hdc], ?_, fun i hi => charField_of_wtext hi⟩
  rw [hlenField, BitVec.toNat_ofNat, Nat.mod_eq_of_lt (by omega)]

theorem toNat_lt_of_high_zero {w : CmdWord} (h : w.extractLsb' 32 32 = 0) : w.toNat < 2 ^ 32 := by
  have hslice : w.toNat / 2 ^ 32 % 2 ^ 32 = 0 := by
    rw [← Nat.shiftRight_eq_div_pow, ← BitVec.extractLsb'_toNat, h]
    rfl
  have := w.isLt
  omega

theorem setbrt_fields {dc : Nat} {pct : Int} {w : CmdWord} (h : assemble (.setbrt dc pct) = some w) :
    opField w = 5 ∧ (dcField w).toNat = dc ∧ lenField w = 0 ∧ (pctField w).toInt = pct ∧ w.toNat < 2 ^ 32 := by
  obtain ⟨hpct, d, rfl, rfl⟩ := assemble_setbrt_eq_some.mp h
  obtain ⟨hdc, hlo, hpctField, hhi⟩ := fields_wordB 0x5 d 0 (BitVec.ofInt 16 pct) 0
  refine ⟨opField_wordB _ _ _ _ _, by rw [hdc], hlo, ?_, toNat_lt_of_high_zero hhi⟩
  rw [hpctField, BitVec.toInt_ofInt_eq_self (by decide)] <;> omega

/-- Settles O58: each line's word is built by its format, whose fields are the operands. -/
theorem assemblerEncodesEachLine : Obligations.AssemblerEncodesEachLine :=
  ⟨rfl, wtext_refused, fun _ _ _ => wtext_fields, map_dcOperand_wordD 0x3, map_dcOperand_wordD 0x4, setbrt_refused,
    fun _ _ _ => setbrt_fields, fun _ => rfl⟩

/-! ### The examples (R85) -/

/-- Settles O1: each line's word is evaluated, and its bytes are read back as the word. -/
theorem exampleWordsDecode : Obligations.ExampleWordsDecode := by
  unfold Obligations.ExampleWordsDecode
  simp only [decode_wordBytes]
  decide

/-! ### BLANK (R83) -/

/-- A text of length 0 stages a blank at every position. -/
theorem stagedBytes_empty (cfg : Config) {n : Nat} (hn : n ≤ 6) (cs : Vector Byte 6) :
    stagedBytes cfg n 0 cs = List.replicate n 0x00 := by
  refine List.eq_replicate_iff.mpr ⟨by rw [stagedBytes_length, Nat.min_eq_left hn], ?_⟩
  simp [stagedBytes]

/-- Settles O6: BLANK is the WTEXT with no character, and staging no character is staging zeros. -/
theorem blankStagesZerosAndCommits : Obligations.BlankStagesZerosAndCommits := by
  intro cfg dc r
  have hword : assemble (.blank dc.toNat) = some (wordT 0x2 dc 0 0 0 0 0 0 0) :=
    assemble_wtext_eq_some.mpr ⟨Nat.zero_le 6, dc, rfl, rfl⟩
  refine ⟨rfl, _, hword, ?_⟩
  rw [decodeCmd_wordT, events, eventsWtext, stage, commit, show (0 : BitVec 4).toNat = 0 from rfl,
    stagedBytes_empty cfg (digitCount_le_six dc)]
  rfl

end Sys2Proof.Machine
end

section
/-! SUPPORT. The line that each word is printed as (spec/30_encoding.md R84). -/
namespace Sys2Proof.Machine

/-! ### The line by the opcode -/

theorem disassemble_illegal {w : CmdWord} (h : opField w = 0 ∨ 6 ≤ opField w) : disassemble w = .dword w := by
  have hill := decodeCmd_isIllegal h
  unfold disassemble
  split
  case h_6 => rfl
  all_goals
    next hw =>
      rw [hw] at hill
      cases hill

theorem disassemble_init {w : CmdWord} (h : opField w = 1) :
    disassemble w = if (decodeCmd w).clearIgnored = decodeCmd w then .init else .dword w := by
  simp [disassemble, decodeCmd_init h, Instr.clearIgnored, eq_comm]

/-- The text is the slots before LEN. -/
theorem disassemble_wtext {w : CmdWord} (h : opField w = 2) :
    disassemble w =
      if (lenField w).toNat ≤ 6 ∧ (decodeCmd w).clearIgnored = decodeCmd w then
        .wtext (dcField w).toNat ((List.range (lenField w).toNat).map fun i => charField w i)
      else .dword w := by
  rw [disassemble, decodeCmd_wtext h]
  refine ite_congr rfl (fun hcond => ?_) fun _ => rfl
  have hslots : [charField w 0, charField w 1, charField w 2, charField w 3, charField w 4, charField w 5] =
      (List.range 6).map fun i => charField w i := rfl
  rw [hslots, ← List.map_take, List.take_range, Nat.min_eq_left hcond.1]

theorem disassemble_wrand {w : CmdWord} (h : opField w = 3) :
    disassemble w = if (decodeCmd w).clearIgnored = decodeCmd w then .wrand (dcField w).toNat else .dword w := by
  simp [disassemble, decodeCmd_wrand h, Instr.clearIgnored, eq_comm]

theorem disassemble_rstdisp {w : CmdWord} (h : opField w = 4) :
    disassemble w = if (decodeCmd w).clearIgnored = decodeCmd w then .rstdisp (dcField w).toNat else .dword w := by
  simp [disassemble, decodeCmd_rstdisp h, Instr.clearIgnored, eq_comm]

theorem disassemble_setbrt {w : CmdWord} (h : opField w = 5) :
    disassemble w =
      if (decodeCmd w).clearIgnored = decodeCmd w then .setbrt (dcField w).toNat (pctField w).toInt
      else .dword w := by
  simp [disassemble, decodeCmd_setbrt h, Instr.clearIgnored, eq_comm]

/-! ### When a word is printed as `.dword` -/

theorem disassemble_eq_dword_iff (w : CmdWord) :
    disassemble w = .dword w ↔ (decodeCmd w).isIllegal = true ∨ (decodeCmd w).clearIgnored ≠ decodeCmd w ∨
      (opField w = 2 ∧ 6 < (lenField w).toNat) := by
  obtain h | h | h | h | h | h := opField_cases w
  · rw [disassemble_init h]
    simp [decodeCmd_init h, Instr.isIllegal, h]
  · rw [disassemble_wtext h]
    simp [decodeCmd_wtext h, Instr.isIllegal, h, or_comm, or_iff_not_imp_left]
  · rw [disassemble_wrand h]
    simp [decodeCmd_wrand h, Instr.isIllegal, h]
  · rw [disassemble_rstdisp h]
    simp [decodeCmd_rstdisp h, Instr.isIllegal, h]
  · rw [disassemble_setbrt h]
    simp [decodeCmd_setbrt h, Instr.isIllegal, h]
  · exact iff_of_true (disassemble_illegal h) (.inl (decodeCmd_isIllegal h))

/-- Settles O56: a line that is not `.dword` is the one its opcode's test lets through. -/
theorem disassemblyPrintsItsOperands : Obligations.DisassemblyPrintsItsOperands := by
  refine fun w => ⟨disassemble_eq_dword_iff w, fun hne =>
    ⟨fun h => ?_, fun h => ?_, fun h => ?_, fun h => ?_, fun h => ?_⟩⟩
  · rw [disassemble_init h] at hne ⊢
    exact if_pos (ite_ne_right_iff.mp hne).1
  · rw [disassemble_wtext h] at hne ⊢
    exact if_pos (ite_ne_right_iff.mp hne).1
  · rw [disassemble_wrand h] at hne ⊢
    exact if_pos (ite_ne_right_iff.mp hne).1
  · rw [disassemble_rstdisp h] at hne ⊢
    exact if_pos (ite_ne_right_iff.mp hne).1
  · rw [disassemble_setbrt h] at hne ⊢
    exact if_pos (ite_ne_right_iff.mp hne).1

end Sys2Proof.Machine
end

section
/-! SUPPORT. The reader takes a number and a text back from their spelling (spec/30_encoding.md R82). -/
namespace Sys2Proof.Machine

/-! ### Digits -/

theorem digitValue_hexChar : ∀ d < 16, digitValue 16 (hexChar d) = some d := by decide

theorem digitValue_decimal : ∀ d < 10, digitValue 10 (Char.ofNat (0x30 + d)) = some d := by decide

theorem readDigits_cons {base d : Nat} {c : Char} (h : digitValue base c = some d) (v : Nat) (cs : List Char) :
    readDigits base v (c :: cs) = readDigits base (base * v + d) cs := by
  rw [readDigits, h]

/-- The characters after a number: the first of them, if any, neither lengthens the number nor makes a `0` before it
a prefix. -/
def EndsNumber (rest : List Char) : Prop := ∀ c ∈ rest.head?, digitValue 10 c = none ∧ c ≠ 'x'

theorem endsNumber_nil : EndsNumber [] := nofun

theorem endsNumber_comma (cs : List Char) : EndsNumber (',' :: cs) := by
  rintro c ⟨⟩
  decide

theorem readDigits_end {rest : List Char} (h : EndsNumber rest) (v : Nat) : readDigits 10 v rest = (v, rest) := by
  cases rest with
  | nil => rfl
  | cons c cs => rw [readDigits, (h c rfl).1]

/-- Reading the spelled decimal digits of a number gives the number. -/
theorem readDigits_decDigits {n k : Nat} (hk : k < 10 ^ n) (rest : List Char) :
    readDigits 10 0 (decDigits n k ++ rest) = readDigits 10 k rest := by
  induction n generalizing k rest with
  | zero =>
    obtain rfl : k = 0 := by simpa using hk
    rfl
  | succ n ih =>
    have hlast := digitValue_decimal (k % 10) (Nat.mod_lt _ (by decide))
    rw [decDigits, List.append_assoc, List.singleton_append]
    split
    · next hsmall => rw [List.nil_append, readDigits_cons hlast, Nat.mul_zero, Nat.zero_add, Nat.mod_eq_of_lt hsmall]
    · rw [ih (by rw [pow_succ] at hk; omega), readDigits_cons hlast, Nat.div_add_mod]

/-- Reading the `n` spelled hexadecimal digits of a number gives what they can hold of it. -/
theorem readDigits_hexDigits (n k : Nat) (rest : List Char) :
    readDigits 16 0 (hexDigits n k ++ rest) = readDigits 16 (k % 16 ^ n) rest := by
  induction n generalizing k rest with
  | zero => rw [pow_zero, Nat.mod_one]; rfl
  | succ n ih =>
    have hlast := digitValue_hexChar (k % 16) (Nat.mod_lt _ (by decide))
    rw [hexDigits, List.append_assoc, List.singleton_append, ih, readDigits_cons hlast, pow_succ, Nat.mul_comm (16 ^ n),
      Nat.mod_mul, Nat.add_comm]

/-! ### Numbers -/

theorem readNat_decimal {c : Char} {cs : List Char} (h : (digitValue 10 c).isSome) (hx : cs.head? ≠ some 'x') :
    readNat (c :: cs) = some (readDigits 10 0 (c :: cs)) := by
  obtain ⟨d, hd⟩ := Option.isSome_iff_exists.mp h
  unfold readNat
  split
  · next heq =>
    cases heq
    exact absurd rfl hx
  · next heq =>
    cases heq
    rw [hd, readDigits_cons hd, Nat.mul_zero, Nat.zero_add, Option.map_some]
  · next heq => cases heq

theorem readNat_hex {c : Char} (h : (digitValue 16 c).isSome) (cs : List Char) :
    readNat ('0' :: 'x' :: c :: cs) = some (readDigits 16 0 (c :: cs)) := by
  obtain ⟨d, hd⟩ := Option.isSome_iff_exists.mp h
  rw [readNat, hd, readDigits_cons hd, Nat.mul_zero, Nat.zero_add, Option.map_some]

theorem decDigits_isDigit {n k : Nat} : ∀ c ∈ decDigits n k, (digitValue 10 c).isSome := by
  induction n generalizing k with
  | zero => nofun
  | succ n ih =>
    have hlast := digitValue_decimal (k % 10) (Nat.mod_lt _ (by decide))
    intro c hc
    rw [decDigits, List.mem_append, List.mem_singleton] at hc
    obtain hc | rfl := hc
    · split at hc
      · cases hc
      · exact ih c hc
    · rw [hlast]
      rfl

/-- A spelled decimal number begins with a digit. -/
theorem decDigits_eq_cons (n k : Nat) : ∃ c cs, decDigits (n + 1) k = c :: cs ∧ (digitValue 10 c).isSome := by
  obtain ⟨c, cs, h⟩ := List.exists_cons_of_ne_nil (l := decDigits (n + 1) k) (List.concat_ne_nil _ _)
  exact ⟨c, cs, h, decDigits_isDigit (n := n + 1) (k := k) c (by simp [h])⟩

theorem readNat_decDigits {n k : Nat} (hk : k < 10 ^ (n + 1)) {rest : List Char} (hrest : EndsNumber rest) :
    readNat (decDigits (n + 1) k ++ rest) = some (k, rest) := by
  obtain ⟨c, cs, hcons, hc⟩ := decDigits_eq_cons n k
  have hx : (cs ++ rest).head? ≠ some 'x' := by
    rw [List.head?_append]
    cases cs with
    | nil => exact fun h => (hrest 'x' h).2 rfl
    | cons d ds =>
      have hd : (digitValue 10 d).isSome := decDigits_isDigit (n := n + 1) (k := k) d (by simp [hcons])
      rintro ⟨⟩
      exact absurd hd (by decide)
  rw [hcons, List.cons_append, readNat_decimal hc hx, ← List.cons_append, ← hcons, readDigits_decDigits hk,
    readDigits_end hrest]

/-- A spelled hexadecimal number begins with a digit. -/
theorem hexDigits_eq_cons (n k : Nat) : ∃ d < 16, ∃ cs, hexDigits (n + 1) k = hexChar d :: cs := by
  induction n generalizing k with
  | zero => exact ⟨k % 16, Nat.mod_lt _ (by decide), [], rfl⟩
  | succ n ih =>
    obtain ⟨d, hd, cs, h⟩ := ih (k / 16)
    exact ⟨d, hd, cs ++ [hexChar (k % 16)], by rw [hexDigits, h, List.cons_append]⟩

theorem readNat_hexDigits (n k : Nat) :
    readNat ('0' :: 'x' :: hexDigits (n + 1) k) = some (k % 16 ^ (n + 1), []) := by
  obtain ⟨d, hd, cs, hcons⟩ := hexDigits_eq_cons n k
  have hread := readDigits_hexDigits (n + 1) k []
  rw [List.append_nil] at hread
  rw [hcons, readNat_hex (by rw [digitValue_hexChar d hd]; rfl), ← hcons, hread]
  rfl

/-- A spelled decimal number begins with neither a blank nor a sign. -/
theorem head?_decDigits_ne (n k : Nat) (rest : List Char) {c : Char} (h : digitValue 10 c = none) :
    (decDigits (n + 1) k ++ rest).head? ≠ some c := by
  obtain ⟨d, cs, hcons, hd⟩ := decDigits_eq_cons n k
  rw [hcons]
  rintro ⟨⟩
  simp [h] at hd

theorem readInt_nonneg {cs : List Char} (h : cs.head? ≠ some '-') :
    readInt cs = (readNat cs).map fun (v, r) => ((v : Int), r) := by
  unfold readInt
  split
  · exact absurd rfl h
  · rfl

/-- A spelled percent: a sign before a negative one, then its digits. -/
theorem readInt_spelled {n : Nat} {p : Int} (hp : p.natAbs < 10 ^ (n + 1)) :
    readInt ((if p < 0 then ['-'] else []) ++ decDigits (n + 1) p.natAbs) = some (p, []) := by
  have hread : readNat (decDigits (n + 1) p.natAbs) = some (p.natAbs, []) := by
    simpa using readNat_decDigits hp endsNumber_nil
  split
  · next hneg =>
    have hsign : -(p.natAbs : Int) = p := by omega
    rw [List.singleton_append, readInt, hread]
    exact congrArg (fun v => some (v, [])) hsign
  · next hpos =>
    have hsign : (p.natAbs : Int) = p := by omega
    have hhead : (decDigits (n + 1) p.natAbs).head? ≠ some '-' := by
      simpa using head?_decDigits_ne n p.natAbs [] (c := '-') (by decide)
    rw [List.nil_append, readInt_nonneg hhead, hread]
    exact congrArg (fun v => some (v, [])) hsign

/-! ### Blanks -/

theorem skipBlanks_of_head? {cs : List Char} (h : cs.head? ≠ some ' ') : skipBlanks cs = cs := by
  unfold skipBlanks
  split
  · exact absurd rfl h
  · rfl

theorem skipBlanks_decDigits (n k : Nat) (rest : List Char) :
    skipBlanks (decDigits (n + 1) k ++ rest) = decDigits (n + 1) k ++ rest :=
  skipBlanks_of_head? (head?_decDigits_ne n k rest (by decide))

/-! ### Texts -/

/-- A printable character that neither ends a text nor begins an escape stands for its code. -/
theorem readText_printable {c : Char} (hlo : 0x20 ≤ c.toNat) (hhi : c.toNat ≤ 0x7E) (hquote : c ≠ '"')
    (hback : c ≠ '\\') (cs : List Char) :
    readText (c :: cs) = (readText cs).map fun (t, r) => (BitVec.ofNat 8 c.toNat :: t, r) := by
  rw [readText]
  · exact if_pos ⟨hlo, hhi, hback⟩
  · exact hquote
  · exact fun _ _ _ h => absurd h hback

theorem readText_spellChar (c : Byte) {cs r : List Char} {t : List Byte} (h : readText cs = some (t, r)) :
    readText (spellChar c ++ cs) = some (c :: t, r) := by
  have hc := c.isLt
  unfold spellChar
  split
  · next hprint =>
    obtain ⟨hlo, hhi, hquote, hback⟩ := hprint
    simp only [BitVec.le_def, ne_eq, BitVec.toNat_eq] at hlo hhi hquote hback
    have hcode : (Char.ofNat c.toNat).toNat = c.toNat := by
      rw [Char.toNat_ofNat, if_pos (.inl (by omega))]
    have hne {d : Char} (hd : c.toNat ≠ d.toNat) : Char.ofNat c.toNat ≠ d := by
      rintro rfl
      exact hd hcode.symm
    rw [List.singleton_append,
      readText_printable (hlo.trans_eq hcode.symm) (hcode.trans_le hhi) (hne hquote) (hne hback), h, hcode,
      Option.map_some, BitVec.ofNat_toNat, BitVec.setWidth_eq]
  · have hhigh := digitValue_hexChar (c.toNat / 16 % 16) (Nat.mod_lt _ (by decide))
    have hlow := digitValue_hexChar (c.toNat % 16) (Nat.mod_lt _ (by decide))
    have hbyte : BitVec.ofNat 8 (16 * (c.toNat / 16 % 16) + c.toNat % 16) = c := by bv_omega
    have hesc : ['\\', 'x'] ++ hexDigits 2 c.toNat ++ cs =
      '\\' :: 'x' :: hexChar (c.toNat / 16 % 16) :: hexChar (c.toNat % 16) :: cs := rfl
    rw [hesc, readText, hhigh, hlow, h]
    simp [hbyte]

theorem readText_spelled (text : List Byte) (rest : List Char) :
    readText (text.flatMap spellChar ++ '"' :: rest) = some (text, rest) := by
  induction text with
  | nil => rfl
  | cons c text ih =>
    rw [List.flatMap_cons, List.append_assoc]
    exact readText_spellChar c ih

end Sys2Proof.Machine
end

section
/-! SUPPORT. A line is read back as it was spelled, and a printed word is assembled again (spec/30_encoding.md R82 to
R84). -/
namespace Sys2Proof.Machine

/-! ### A spelled line read back (R82) -/

/-- A line that begins with a mnemonic is read as that mnemonic and the operands after the blanks. -/
theorem readLine_mnemonic {m : List Char} (hm : m.all (· ≠ ' ') = true) (hne : m ≠ []) (operands : List Char) :
    readLine (m ++ ' ' :: operands) = readOperands (m.map upper) (skipBlanks operands) := by
  have hnoblank : ∀ c ∈ m, decide (c ≠ ' ') = true := List.all_eq_true.mp hm
  have hstart : skipBlanks (m ++ ' ' :: operands) = m ++ ' ' :: operands := by
    apply skipBlanks_of_head?
    obtain ⟨c, cs, rfl⟩ := List.exists_cons_of_ne_nil hne
    rintro ⟨⟩
    exact absurd (hnoblank ' ' List.mem_cons_self) (by decide)
  rw [readLine, hstart, List.takeWhile_append_of_pos hnoblank, List.dropWhile_append_of_pos hnoblank]
  simp [skipBlanks]

/-- A line with a digit count alone. -/
theorem readLine_count {m : List Char} {line : Nat → AsmLine} (hm : m.all (· ≠ ' ') = true) (hne : m ≠ [])
    (hread : ∀ operands, readOperands (m.map upper) operands =
      (readNat operands).bind fun (dc, r) => atEnd (line dc) r) {dc : Nat} (hdc : dc ≤ 255) :
    readLine (m ++ ' ' :: decDigits 3 dc) = some (line dc) := by
  have hcount : readNat (decDigits 3 dc ++ []) = some (dc, []) := readNat_decDigits (by omega) endsNumber_nil
  rw [readLine_mnemonic hm hne, hread, ← List.append_nil (decDigits 3 dc), skipBlanks_decDigits, hcount]
  rfl

theorem readOperands_wtext (operands : List Char) :
    readOperands (['W', 'T', 'E', 'X', 'T'].map upper) operands =
      (readNat operands).bind fun (dc, r) => (afterComma r).bind fun r =>
        match r with
        | '"' :: r => (readText r).bind fun (t, r) => atEnd (.wtext dc t) r
        | _ => none := rfl

theorem readOperands_setbrt (operands : List Char) :
    readOperands (['S', 'E', 'T', 'B', 'R', 'T'].map upper) operands =
      (readNat operands).bind fun (dc, r) => (afterComma r).bind fun r =>
        (readInt r).bind fun (pct, r) => atEnd (.setbrt dc pct) r := rfl

theorem readOperands_dword (operands : List Char) :
    readOperands (['.', 'd', 'w', 'o', 'r', 'd'].map upper) operands =
      (readNat operands).bind fun (v, r) => if v < 2 ^ 64 then atEnd (.dword (BitVec.ofNat 64 v)) r else none := rfl

/-- A digit count, and the comma after it. -/
theorem readNat_count_comma {dc : Nat} (hdc : dc ≤ 255) (rest : List Char) :
    readNat (decDigits 3 dc ++ ',' :: rest) = some (dc, ',' :: rest) :=
  readNat_decDigits (by omega) (endsNumber_comma rest)

/-- After the comma of a spelled line stand one blank and the next operand. -/
theorem afterComma_spelled {cs : List Char} (h : cs.head? ≠ some ' ') : afterComma (',' :: ' ' :: cs) = some cs :=
  congrArg some (skipBlanks_of_head? h)

/-- The operands of a line are in the range that the assembler takes; a text may be of any length. -/
def AsmLine.InRange : AsmLine → Prop
  | .init | .dword _ => True
  | .wtext dc _ | .wrand dc | .rstdisp dc | .blank dc => dc ≤ 255
  | .setbrt dc pct => dc ≤ 255 ∧ -32768 ≤ pct ∧ pct ≤ 32767

theorem readLine_wtext {dc : Nat} (hdc : dc ≤ 255) (text : List Byte) :
    readLine (AsmLine.wtext dc text).spell = some (.wtext dc text) := by
  have hspell : (AsmLine.wtext dc text).spell = ['W', 'T', 'E', 'X', 'T'] ++
      ' ' :: (decDigits 3 dc ++ ',' :: ' ' :: '"' :: (text.flatMap spellChar ++ ['"'])) := by
    simp [AsmLine.spell]
  have htext : readText (text.flatMap spellChar ++ ['"']) = some (text, []) := readText_spelled text []
  have hcomma : afterComma (',' :: ' ' :: '"' :: (text.flatMap spellChar ++ ['"'])) =
      some ('"' :: (text.flatMap spellChar ++ ['"'])) :=
    afterComma_spelled (by simp)
  rw [hspell, readLine_mnemonic rfl (by decide), skipBlanks_decDigits, readOperands_wtext]
  simp [readNat_count_comma hdc, hcomma, htext, atEnd, skipBlanks]

theorem readLine_setbrt {dc : Nat} {pct : Int} (hdc : dc ≤ 255) (hlo : -32768 ≤ pct) (hhi : pct ≤ 32767) :
    readLine (AsmLine.setbrt dc pct).spell = some (.setbrt dc pct) := by
  have hspell : (AsmLine.setbrt dc pct).spell = ['S', 'E', 'T', 'B', 'R', 'T'] ++
      ' ' :: (decDigits 3 dc ++ ',' :: ' ' :: ((if pct < 0 then ['-'] else []) ++ decDigits 5 pct.natAbs)) := by
    simp [AsmLine.spell]
  have hpct : readInt ((if pct < 0 then ['-'] else []) ++ decDigits 5 pct.natAbs) = some (pct, []) :=
    readInt_spelled (by omega)
  have hhead : ((if pct < 0 then ['-'] else []) ++ decDigits 5 pct.natAbs).head? ≠ some ' ' := by
    split
    · exact (by decide : some '-' ≠ some ' ')
    · simpa using head?_decDigits_ne 4 pct.natAbs [] (c := ' ') (by decide)
  rw [hspell, readLine_mnemonic rfl (by decide), skipBlanks_decDigits, readOperands_setbrt]
  simp [readNat_count_comma hdc, afterComma_spelled hhead, hpct, atEnd, skipBlanks]

theorem readLine_dword (w : CmdWord) : readLine (AsmLine.dword w).spell = some (.dword w) := by
  have hspell : (AsmLine.dword w).spell =
      ['.', 'd', 'w', 'o', 'r', 'd'] ++ ' ' :: '0' :: 'x' :: hexDigits 16 w.toNat := by
    simp [AsmLine.spell]
  have hword : readNat ('0' :: 'x' :: hexDigits 16 w.toNat) = some (w.toNat, []) :=
    (readNat_hexDigits 15 w.toNat).trans (congrArg (fun v => some (v, [])) (Nat.mod_eq_of_lt w.isLt))
  rw [hspell, readLine_mnemonic rfl (by decide), skipBlanks_of_head? (by simp), readOperands_dword]
  simp [hword, w.isLt, atEnd, skipBlanks]

theorem readLine_spell {l : AsmLine} (h : l.InRange) : readLine l.spell = some l := by
  cases l with
  | init => rfl
  | wtext dc text => exact readLine_wtext h text
  | wrand dc => exact readLine_count (m := ['W', 'R', 'A', 'N', 'D']) rfl (by decide) (fun _ => rfl) h
  | rstdisp dc => exact readLine_count (m := ['R', 'S', 'T', 'D', 'I', 'S', 'P']) rfl (by decide) (fun _ => rfl) h
  | setbrt dc pct =>
    obtain ⟨hdc, hlo, hhi⟩ := h
    exact readLine_setbrt hdc hlo hhi
  | blank dc => exact readLine_count (m := ['B', 'L', 'A', 'N', 'K']) rfl (by decide) (fun _ => rfl) h
  | dword w => exact readLine_dword w

/-- Settles O57: a digit count of eight bits and a percent of 16 are in range. -/
theorem spelledLinesAreReadBack : Obligations.SpelledLinesAreReadBack := by
  have hdc (dc : BitVec 8) : dc.toNat ≤ 255 := Nat.le_of_lt_succ dc.isLt
  exact ⟨readLine_spell trivial, fun dc _ => readLine_spell (hdc dc), fun dc => readLine_spell (hdc dc),
    fun dc => readLine_spell (hdc dc),
    fun dc pct => readLine_spell ⟨hdc dc, pct.le_toInt, Int.le_of_lt_add_one pct.toInt_lt⟩,
    fun dc => readLine_spell (hdc dc), fun w => readLine_spell trivial⟩

/-! ### A printed word assembled again (R84) -/

/-- What the assembler takes is in range. -/
theorem inRange_of_assemble {l : AsmLine} {w : CmdWord} (h : assemble l = some w) : l.InRange := by
  have hcount {f : BitVec 8 → CmdWord} {dc : Nat} (hf : (dcOperand dc).map f = some w) : dc ≤ 255 := by
    obtain ⟨d, hd, -⟩ := Option.map_eq_some_iff.mp hf
    rw [dcOperand_eq_some.mp hd]
    exact Nat.le_of_lt_succ d.isLt
  cases l with
  | init | dword => trivial
  | wtext dc text =>
    obtain ⟨-, d, rfl, -⟩ := assemble_wtext_eq_some.mp h
    exact Nat.le_of_lt_succ d.isLt
  | wrand dc | rstdisp dc => exact hcount h
  | setbrt dc pct =>
    obtain ⟨⟨hlo, hhi⟩, d, rfl, -⟩ := assemble_setbrt_eq_some.mp h
    exact ⟨Nat.le_of_lt_succ d.isLt, hlo, hhi⟩
  | blank dc =>
    obtain ⟨-, d, rfl, -⟩ := assemble_wtext_eq_some.mp h
    exact Nat.le_of_lt_succ d.isLt

/-- A word without ignored bits is what its instruction without them encodes. -/
theorem encoded_of_clean {w : CmdWord} {i : Instr} (hclean : (decodeCmd w).clearIgnored = decodeCmd w)
    (hw : decodeCmd w = i) : i.clearIgnored.encoded = .word w := by
  rw [← hw, hclean]
  exact encoded_decodeCmd w

theorem textSlot_range (n : Nat) (f : Nat → Byte) (i : Nat) :
    textSlot ((List.range n).map f) i = if i < n then f i else 0 := by
  unfold textSlot
  split
  · next h => simp [h]
  · next h => simp [h]

/-- The text of the slots before LEN fills the slots again. -/
theorem assemble_wtext_slots {w : CmdWord} (h : opField w = 2) (hlen : (lenField w).toNat ≤ 6)
    (hclean : (decodeCmd w).clearIgnored = decodeCmd w) :
    assemble (.wtext (dcField w).toNat ((List.range (lenField w).toNat).map fun i => charField w i)) = some w := by
  refine assemble_wtext_eq_some.mpr ⟨by simpa using hlen, dcField w, rfl, ?_⟩
  simp only [textSlot_range, List.length_map, List.length_range, BitVec.ofNat_toNat, BitVec.setWidth_eq]
  exact Encoded.word.inj (encoded_of_clean hclean (decodeCmd_wtext h))

theorem assemble_disassemble (w : CmdWord) : assemble (disassemble w) = some w := by
  obtain h | h | h | h | h | h := opField_cases w
  · rw [disassemble_init h]
    split
    · next hclean => exact congrArg some (Encoded.word.inj (encoded_of_clean hclean (decodeCmd_init h)))
    · rfl
  · rw [disassemble_wtext h]
    split
    · next hcond => exact assemble_wtext_slots h hcond.1 hcond.2
    · rfl
  · rw [disassemble_wrand h]
    split
    · next hclean =>
      rw [assemble, dcOperand_toNat]
      exact congrArg some (Encoded.word.inj (encoded_of_clean hclean (decodeCmd_wrand h)))
    · rfl
  · rw [disassemble_rstdisp h]
    split
    · next hclean =>
      rw [assemble, dcOperand_toNat]
      exact congrArg some (Encoded.word.inj (encoded_of_clean hclean (decodeCmd_rstdisp h)))
    · rfl
  · rw [disassemble_setbrt h]
    split
    · next hclean =>
      refine assemble_setbrt_eq_some.mpr
        ⟨⟨BitVec.le_toInt _, Int.le_of_lt_add_one BitVec.toInt_lt⟩, dcField w, rfl, ?_⟩
      rw [BitVec.ofInt_toInt]
      exact Encoded.word.inj (encoded_of_clean hclean (decodeCmd_setbrt h))
    · rfl
  · rw [disassemble_illegal h]
    rfl

/-- Settles O7: the printed line assembles to the word, so it is in range and is read back from its spelling. -/
theorem assembleOfDisassemble : Obligations.AssembleOfDisassemble := by
  intro w
  have hline := assemble_disassemble w
  refine ⟨?_, hline⟩
  rw [assembleLine, readLine_spell (inRange_of_assemble hline)]
  exact hline

end Sys2Proof.Machine
end

section
/-! SUPPORT. The glyph ROM (spec/40_glyph_encoder.md R102, R103, R105): ten digits, and nothing at any other code. -/
namespace Sys2Proof.Machine

theorem rom_of_not_digit (cfg : Config) {c : Byte} (h : ¬ (0x30 ≤ c ∧ c ≤ 0x39)) : rom cfg c = 0x00 := by
  unfold rom
  split
  case h_11 => rfl
  all_goals
    next hc => simp [BitVec.le_def, hc] at h

/-- Settles O8: the elided entries are the strap's, the others the ROM's own. -/
theorem romHoldsTheGlyphTable : Obligations.RomHoldsTheGlyphTable := by
  refine fun cfg => ⟨⟨rfl, rfl, rfl⟩, fun hstd => ?_, fun _ => rom_of_not_digit cfg⟩
  simp [rom, hstd, Config.standardGlyphs]

/-! ### The standard glyphs (R105) -/

/-- The glyphs of '0' to '9' in a build with the standard ones (R102). -/
def digitGlyphs : List Byte := [0x3F, 0x06, 0x5B, 0x4F, 0x66, 0x6D, 0x7D, 0x07, 0x7F, 0x6F]

theorem exists_digitCode {c : Byte} (hlo : 0x30 ≤ c) (hhi : c ≤ 0x39) : ∃ d < 10, c = digitCode d :=
  ⟨c.toNat - 0x30, by bv_omega, by unfold digitCode; bv_omega⟩

section
variable {cfg : Config} (hstd : cfg.glyphs2to8 = Config.standardGlyphs)
include hstd

theorem digitGlyphs_getElem? {d : Nat} (hd : d < 10) : digitGlyphs[d]? = some (rom cfg (digitCode d)) := by
  obtain ⟨⟨h0, h1, h9⟩, hstrap, -⟩ := romHoldsTheGlyphTable cfg
  obtain ⟨h2, h3, h4, h5, h6, h7, h8⟩ := hstrap hstd
  interval_cases d <;> refine congrArg some (Eq.symm ?_)
  exacts [h0, h1, h2, h3, h4, h5, h6, h7, h8, h9]

theorem rom_mem_digitGlyphs {c : Byte} (hlo : 0x30 ≤ c) (hhi : c ≤ 0x39) : rom cfg c ∈ digitGlyphs := by
  obtain ⟨d, hd, rfl⟩ := exists_digitCode hlo hhi
  exact List.mem_of_getElem? (digitGlyphs_getElem? hstd hd)

/-- No two digits share a glyph, because no entry of the list is repeated. -/
theorem rom_injOn_digits {c c' : Byte} (hlo : 0x30 ≤ c) (hhi : c ≤ 0x39) (hlo' : 0x30 ≤ c') (hhi' : c' ≤ 0x39)
    (h : rom cfg c = rom cfg c') : c = c' := by
  obtain ⟨d, hd, rfl⟩ := exists_digitCode hlo hhi
  obtain ⟨d', hd', rfl⟩ := exists_digitCode hlo' hhi'
  have hnodup : digitGlyphs.Nodup := by decide
  have hsame : digitGlyphs[d]? = digitGlyphs[d']? := by
    rw [digitGlyphs_getElem? hstd hd, digitGlyphs_getElem? hstd hd', h]
  exact congrArg digitCode ((List.getElem?_inj hd hnodup).mp hsame)

/-- A code is a digit and shows a glyph of the list, or it is none and shows the blank. -/
theorem rom_cases (c : Byte) :
    ((0x30 ≤ c ∧ c ≤ 0x39) ∧ rom cfg c ∈ digitGlyphs) ∨ (¬ (0x30 ≤ c ∧ c ≤ 0x39) ∧ rom cfg c = 0x00) := by
  by_cases hdigit : 0x30 ≤ c ∧ c ≤ 0x39
  · exact .inl ⟨hdigit, rom_mem_digitGlyphs hstd hdigit.1 hdigit.2⟩
  · exact .inr ⟨hdigit, rom_of_not_digit cfg hdigit⟩

theorem rom_ne_zero_iff (c : Byte) : rom cfg c ≠ 0 ↔ (0x30 ≤ c ∧ c ≤ 0x39) := by
  have hlit : ∀ g ∈ digitGlyphs, g ≠ 0 := by decide
  obtain ⟨hdigit, hmem⟩ | ⟨hdigit, hzero⟩ := rom_cases hstd c
  · exact iff_of_true (hlit _ hmem) hdigit
  · exact iff_of_false (not_not.mpr hzero) hdigit

theorem rom_bit7 (c : Byte) : (rom cfg c).getLsbD 7 = false := by
  have hclear : ∀ g ∈ digitGlyphs, g.getLsbD 7 = false := by decide
  obtain ⟨-, hmem⟩ | ⟨-, hzero⟩ := rom_cases hstd c
  · exact hclear _ hmem
  · rw [hzero]; rfl

theorem rom_eight : rom cfg 0x38 = 0x7F := (Option.some.inj (digitGlyphs_getElem? hstd (d := 8) (by decide))).symm

/-- Of the glyphs only 0x7F lights all seven segments, and only '8' has it. -/
theorem rom_allLit_iff (c : Byte) : (∀ k < 7, (rom cfg c).getLsbD k = true) ↔ c = 0x38 := by
  constructor
  · intro hlit
    have hfull : ∀ g ∈ digitGlyphs, (∀ k < 7, g.getLsbD k = true) → g = 0x7F := by decide
    obtain ⟨⟨hlo, hhi⟩, hmem⟩ | ⟨-, hzero⟩ := rom_cases hstd c
    · exact rom_injOn_digits hstd hlo hhi (by decide) (by decide) ((hfull _ hmem hlit).trans (rom_eight hstd).symm)
    · have hfirst := hlit 0 (by decide)
      simp [hzero] at hfirst
  · rintro rfl
    rw [rom_eight hstd]
    decide

end

/-- Settles O9: every property is one of the ten glyphs' list, and the blank has none of their segments. -/
theorem glyphRomProperties : Obligations.GlyphRomProperties := fun _ hstd =>
  ⟨rom_ne_zero_iff hstd, rom_bit7 hstd, fun _ _ => rom_injOn_digits hstd, rom_allLit_iff hstd, rom_eight hstd,
    fun _ => digitGlyphs_getElem? hstd⟩

end Sys2Proof.Machine
end

section
/-! SUPPORT. The LUT port (spec/40_glyph_encoder.md R100, R104, spec/41_sequencer_commands.md R166): a lookup drives
its code and moves nothing else, and the sequencer does not read the code. -/
namespace Sys2Proof.Machine

/-- The state with the code `c` on `enc_char`. -/
def State.driveCode (c : Byte) (s : State) : State := s.withInputs { s.inputs with encChar := c }

theorem lookup_eq (c : Byte) (s : State) : lookup c s = .next (s.driveCode c) := rfl

@[simp] theorem State.driveCode_cfg (c : Byte) (s : State) : (s.driveCode c).cfg = s.cfg := rfl
@[simp] theorem State.driveCode_txn (c : Byte) (s : State) : (s.driveCode c).txn = s.txn := rfl
@[simp] theorem State.driveCode_chip4 (c : Byte) (s : State) : (s.driveCode c).chip4 = s.chip4 := rfl
@[simp] theorem State.driveCode_chip6 (c : Byte) (s : State) : (s.driveCode c).chip6 = s.chip6 := rfl
@[simp] theorem State.driveCode_deliver (c : Byte) (s : State) :
    (s.driveCode c).inputs.deliver = s.inputs.deliver := rfl

/-! ### Each lookup (R102, R103) -/

theorem exec_of_encoded {i : Instr} {c : Byte} (hwf : i.wellFormed = true) (h : i.encoded = .code c) (s : State) :
    exec i s = .next (s.driveCode c) := by
  rw [← decodeLut_encoded hwf h, exec_decodeLut, lookup_eq]

theorem not_digit_of_blank_wellFormed {c : Byte} (h : (Instr.glyphBlank c).wellFormed = true) :
    ¬ (0x30 ≤ c ∧ c ≤ 0x39) := by
  simpa [Instr.wellFormed, isDigitCode, Decidable.imp_iff_not_or] using h

/-- Settles O10: each lookup drives the code that it is encoded by, and `enc_seg` is the ROM's entry there. -/
theorem lookupsShowTheirGlyphs : Obligations.LookupsShowTheirGlyphs := by
  intro s
  obtain ⟨⟨h0, h1, h9⟩, hstrap, hblank⟩ := romHoldsTheGlyphTable s.cfg
  simp only [imp_and] at hstrap
  obtain ⟨h2, h3, h4, h5, h6, h7, h8⟩ := hstrap
  refine ⟨?_, ?_, fun c hwf => ⟨exec_of_encoded hwf rfl s, hblank c (not_digit_of_blank_wellFormed hwf)⟩⟩
  all_goals simp only [List.forall_mem_cons]
  · exact ⟨⟨exec_of_encoded rfl rfl s, h0⟩, ⟨exec_of_encoded rfl rfl s, h1⟩, ⟨exec_of_encoded rfl rfl s, h9⟩,
      List.forall_mem_nil _⟩
  · exact ⟨⟨exec_of_encoded rfl rfl s, h2⟩, ⟨exec_of_encoded rfl rfl s, h3⟩, ⟨exec_of_encoded rfl rfl s, h4⟩,
      ⟨exec_of_encoded rfl rfl s, h5⟩, ⟨exec_of_encoded rfl rfl s, h6⟩, ⟨exec_of_encoded rfl rfl s, h7⟩,
      ⟨exec_of_encoded rfl rfl s, h8⟩, List.forall_mem_nil _⟩

/-! ### The sequencer does not read `enc_char` (R166) -/

section
variable (c : Byte) (s : State) {r r' : Result} (h : r' = mapNext (State.driveCode c) r)
include h

theorem offer_driveCode : offer (s.driveCode c) r' = mapNext (State.driveCode c) (offer s r) := by
  subst h
  exact (apply_ite (mapNext (State.driveCode c)) (s.cmdReady = true) r (.next s)).symm

theorem ifInitDone_driveCode : ifInitDone (s.driveCode c) r' = mapNext (State.driveCode c) (ifInitDone s r) := by
  subst h
  exact (apply_ite (mapNext (State.driveCode c)) (s.seq.initDone = true) r (reject .noinit s)).symm

theorem ifRngInRange_driveCode :
    ifRngInRange (s.driveCode c) r' = mapNext (State.driveCode c) (ifRngInRange s r) := by
  subst h
  exact (apply_ite (mapNext (State.driveCode c)) (rngInRange s.inputs.rngValue = true) r (reject .rng s)).symm

end

theorem exec_command_driveCode (c : Byte) {i : Instr} (h : i.isCommandWord = true) (s : State) :
    exec i (s.driveCode c) = mapNext (State.driveCode c) (exec i s) := by
  cases i
  case init | illegal0 | illegal6 | illegal7 | illegal8 | illegal9 | illegalA | illegalB | illegalC | illegalD |
      illegalE | illegalF => exact offer_driveCode c s rfl
  case wtext | rstdisp | setbrt => exact offer_driveCode c s (ifInitDone_driveCode c s rfl)
  case wrand => exact offer_driveCode c s (ifInitDone_driveCode c s (ifRngInRange_driveCode c s rfl))
  all_goals cases h

theorem carry_driveCode (c : Byte) (e : Event) (s : State) :
    carry e (s.driveCode c) = mapNext (State.driveCode c) (carry e s) := by
  cases e with
  | start a => rfl
  | stop => rfl
  | byte b =>
    rw [carry, carry, State.driveCode_txn]
    cases s.txn with
    | none => rfl
    | some o =>
      simp only [carryByte, State.driveCode_cfg, State.driveCode_deliver, State.driveCode_chip4,
        State.driveCode_chip6]
      split <;> rfl

theorem emit_driveCode (c : Byte) (s : State) : emit (s.driveCode c) = mapNext (State.driveCode c) (emit s) := by
  have hpresented : (s.driveCode c).presented = s.presented := rfl
  rw [emit, emit, hpresented]
  cases s.presented with
  | none => rfl
  | some e =>
    simp only [carry_driveCode]
    cases carry e s <;> rfl

theorem sequencerPhase_driveCode (c : Byte) (s : State) :
    sequencerPhase (s.driveCode c) = mapNext (State.driveCode c) (sequencerPhase s) := by
  have hcommand := exec_command_driveCode c (decodeCmd_isCommandWord s.inputs.cmdWord) s
  unfold sequencerPhase
  simp only [apply_ite (mapNext (State.driveCode c)), ← emit_driveCode, ← hcommand]
  rfl

/-! ### A step and the port -/

/-- Nothing that the sequencer's step does moves an input port. -/
theorem sequencerPhase_inputs {s t : State} (h : sequencerPhase s = .next t) : t.inputs = s.inputs := by
  obtain ⟨-, rfl⟩ | ⟨-, -, -, e, u, -, hcarry, rfl⟩ | ⟨-, -, -, q, rfl⟩ | ⟨-, rfl⟩ := sequencerPhase_next h
  · rfl
  · obtain ⟨-, -, hinputs, -⟩ := carry_frame hcarry
    exact hinputs
  · rfl
  · rfl

theorem step_encSeg {s t : State} (h : step s = .next t) : t.encSeg = rom s.cfg s.sample.inputs.encChar := by
  have hcfg := strapsNeverChange s t h
  rw [step_eq] at h
  rw [State.encSeg, hcfg, sequencerPhase_inputs h]

/-- An active block without `ev_ready` and an idle one without a command wait (R163). -/
theorem sequencerPhase_wait {s : State} (hrst : s.inputs.rst = false)
    (hevent : s.inputs.evReady = true → s.seq.active = false) (hcmd : s.inputs.cmdValid = false) :
    sequencerPhase s = .next s := by
  cases hready : s.inputs.evReady with
  | false => simp [sequencerPhase, hrst, hready, hcmd]
  | true => simp [sequencerPhase, hrst, hevent hready, hcmd]

/-- After State.presentCode the environment's move puts the code on the port and lets the sequencer wait. -/
theorem State.sample_presentCode (s : State) (c : Byte) :
    (s.presentCode c).sample =
      s.withInputs { s.inputs.quiet with encChar := c, evReady := s.inputs.evReady && !s.seq.active } := rfl

theorem step_presentCode (s : State) (c : Byte) :
    step (s.presentCode c) = exec (decodeLut c) (s.presentCode c).sample := by
  rw [step_eq, exec_decodeLut, State.sample_presentCode]
  refine sequencerPhase_wait rfl (fun hready => ?_) rfl
  obtain ⟨-, hidle⟩ := Bool.and_eq_true_iff.mp hready
  simpa using hidle

/-- Settles O27: the lookup drives what stands on the port, and the sequencer neither reads nor moves it. -/
theorem stepRunsTheLookup : Obligations.StepRunsTheLookup :=
  ⟨fun s => ⟨lookupPhase_eq s.sample, step_eq s⟩, fun _ _ => step_encSeg, fun s c => sequencerPhase_driveCode c s,
    step_presentCode⟩

end Sys2Proof.Machine
end

section
/-! SUPPORT. The acceptance step (spec/41_sequencer_commands.md R140, R145, R150, R153, R155, R160): what stands on
the command port is read by its opcode, and the whole word is latched. -/
namespace Sys2Proof.Machine

/-- Settles O29: neither of the two waits has anything to do. -/
theorem waitingChangesNothing : Obligations.WaitingChangesNothing :=
  ⟨fun _ hrst hactive hready => by simp [sequencerPhase, hrst, hactive, hready],
    fun _ hrst hidle hcmd => sequencerPhase_wait hrst (fun _ => hidle) hcmd⟩

/-! ### Acceptance by an idle block -/

/-- Settles O18: INIT makes no check but that the block is ready. -/
theorem initIsAccepted : Obligations.InitIsAccepted :=
  fun _ _ hready => offer_ready hready _

/-- A command whose only check is that the bus is open (R172). -/
theorem offer_accept_open {s : State} (hready : s.cmdReady = true) (hinit : s.seq.initDone = true) (w : CmdWord) :
    offer s (ifInitDone s (accept w 0 s)) = accept w 0 s := by
  rw [offer_ready hready, ifInitDone_open hinit]

/-- Settles O19: the three commands make the same check, and latch their own word. -/
theorem textResetAndBrightnessAreAccepted : Obligations.TextResetAndBrightnessAreAccepted :=
  fun _ hready hinit => ⟨fun _ _ _ _ _ _ _ _ => offer_accept_open hready hinit _,
    fun _ _ => offer_accept_open hready hinit _, fun _ _ _ _ => offer_accept_open hready hinit _⟩

theorem rngInRange_iff (r : RandomWord) : rngInRange r = true ↔ 100000 ≤ r.toNat ∧ r.toNat ≤ 999998 := by
  simp [rngInRange]

/-- Settles O20: WRAND's own check lets a value in range pass, and that value is latched. -/
theorem wrandIsAcceptedInRange : Obligations.WrandIsAcceptedInRange := by
  intro dc ign s hready hinit hlo hhi
  have hrng : rngInRange s.inputs.rngValue = true := (rngInRange_iff _).mpr ⟨hlo, hhi⟩
  rw [exec, execWrand, offer_ready hready, ifInitDone_open hinit, ifRngInRange_in hrng]
  rfl

/-! ### The meaning of a word by its opcode (R160) -/

theorem exec_of_isIllegal {i : Instr} (h : i.isIllegal = true) (s : State) :
    exec i s = offer s (reject .illegal s) := by
  cases i
  case illegal0 | illegal6 | illegal7 | illegal8 | illegal9 | illegalA | illegalB | illegalC | illegalD | illegalE |
      illegalF => rfl
  all_goals cases h

theorem exec_decodeCmd_init {w : CmdWord} (h : opField w = 1) (s : State) :
    exec (decodeCmd w) s = offer s (acceptInit w s) := by
  rw [decodeCmd_init h, exec, execInit, ← h, wordOp_fields]

theorem exec_decodeCmd_wrand {w : CmdWord} (h : opField w = 3) (s : State) :
    exec (decodeCmd w) s = offer s (ifInitDone s (ifRngInRange s (accept w s.inputs.rngValue s))) := by
  rw [decodeCmd_wrand h, exec, execWrand, ← h, wordD_fields]

/-- WTEXT, RSTDISP and SETBRT are checked and latched alike. -/
theorem exec_decodeCmd_plain {w : CmdWord} (h : opField w = 2 ∨ opField w = 4 ∨ opField w = 5) (s : State) :
    exec (decodeCmd w) s = offer s (ifInitDone s (accept w 0 s)) := by
  obtain h | h | h := h
  · rw [decodeCmd_wtext h, exec, execWtext, ← h, wordT_fields]
  · rw [decodeCmd_rstdisp h, exec, execRstdisp, ← h, wordD_fields]
  · rw [decodeCmd_setbrt h, exec, execSetbrt, ← h, wordB_fields]

/-- R160's if-chain: what the word `w` makes of the sequencer of an idle block when `rng_value` is `r`. -/
def Sequencer.answer (q : Sequencer) (w : CmdWord) (r : RandomWord) : Sequencer :=
  if opField w = 0 ∨ 6 ≤ opField w then q.flag .illegal
  else if opField w ≠ 1 ∧ q.initDone = false then q.flag .noinit
  else if opField w = 3 ∧ ¬ (100000 ≤ r.toNat ∧ r.toNat ≤ 999998) then q.flag .rng
  else { q.latch w (if opField w = 3 then r else 0) with initDone := q.initDone || opField w == 1 }

/-- Before INIT every legal command but INIT meets the same check first. -/
theorem Sequencer.answer_closed {q : Sequencer} {w : CmdWord} {r : RandomWord} (hinit : q.initDone = false)
    (hop : opField w = 2 ∨ opField w = 3 ∨ opField w = 4 ∨ opField w = 5) : q.answer w r = q.flag .noinit := by
  unfold Sequencer.answer
  rw [if_neg (by bv_omega), if_pos ⟨by bv_omega, hinit⟩]

/-- An open bus stays open, so that only the word and the random value are latched. -/
theorem Sequencer.answer_open {q : Sequencer} {w : CmdWord} {r : RandomWord} (hinit : q.initDone = true)
    (hop : opField w = 2 ∨ opField w = 4 ∨ opField w = 5) : q.answer w r = q.latch w 0 := by
  unfold Sequencer.answer
  rw [if_neg (by bv_omega), if_neg (by simp [hinit]), if_neg (by bv_omega), if_neg (by bv_omega)]
  simp [Sequencer.latch, hinit]

theorem Sequencer.answer_wrand {q : Sequencer} {w : CmdWord} {r : RandomWord} (hinit : q.initDone = true)
    (hop : opField w = 3) : q.answer w r = if rngInRange r then q.latch w r else q.flag .rng := by
  simp only [Sequencer.answer, hop, hinit, ← rngInRange_iff]
  cases rngInRange r <;> simp [Sequencer.latch, hinit]

/-- The words by the checks that acceptance makes of them (R160). -/
theorem opField_checks (w : CmdWord) :
    (opField w = 0 ∨ 6 ≤ opField w) ∨ opField w = 1 ∨ opField w = 3 ∨
      (opField w = 2 ∨ opField w = 4 ∨ opField w = 5) := by
  bv_omega

/-- Whatever word is presented to an idle block, R160's if-chain answers. -/
theorem exec_decodeCmd {s : State} (hready : s.cmdReady = true) (w : CmdWord) :
    exec (decodeCmd w) s = .next (s.withSeq (s.seq.answer w s.inputs.rngValue)) := by
  obtain hop | hop | hop | hop := opField_checks w
  · rw [exec_of_isIllegal (decodeCmd_isIllegal hop), offer_ready hready, Sequencer.answer, if_pos hop]
    rfl
  · rw [exec_decodeCmd_init hop, offer_ready hready]
    simp [acceptInit, Sequencer.answer, hop]
  · rw [exec_decodeCmd_wrand hop, offer_ready hready]
    cases hinit : s.seq.initDone with
    | false =>
      rw [ifInitDone_closed hinit, Sequencer.answer_closed hinit (by tauto)]
      rfl
    | true =>
      rw [ifInitDone_open hinit, Sequencer.answer_wrand hinit hop]
      exact (apply_ite (fun q => Host.Outcome.next (s.withSeq q)) _ _ _).symm
  · rw [exec_decodeCmd_plain hop, offer_ready hready]
    cases hinit : s.seq.initDone with
    | false =>
      rw [ifInitDone_closed hinit, Sequencer.answer_closed hinit (by tauto)]
      rfl
    | true =>
      rw [ifInitDone_open hinit, Sequencer.answer_open hinit hop]
      rfl

theorem State.cmdReady_iff (s : State) : s.cmdReady = true ↔ s.seq.active = false ∧ s.inputs.rst = false := by
  simp [State.cmdReady]

/-- Settles O25: an idle block runs the word on its port, and its answer is R160's if-chain. -/
theorem acceptanceStep : Obligations.AcceptanceStep := by
  rintro s hrst hidle hvalid q rfl
  rw [sequencerPhase_presented hrst hidle hvalid, exec_decodeCmd ((State.cmdReady_iff s).mpr ⟨hidle, hrst⟩)]
  rfl

end Sys2Proof.Machine
end

section
/-! SUPPORT. The brightness mapping, the decimal digits and staging (spec/41_sequencer_commands.md R123, R124, R130,
R150). -/
namespace Sys2Proof.Machine

/-! ### Brightness (R123) -/

/-- The duty byte does not wrap: the clamped percent gives at most 128. -/
theorem duty_toNat (p : Int) : (duty p).toNat = (64 * (clamp p 0 100).toNat + 25) / 50 := by
  have hclamp : (clamp p 0 100).toNat ≤ 100 := by
    unfold clamp
    omega
  rw [duty, BitVec.toNat_ofNat, Nat.mod_eq_of_lt (by omega)]

theorem clamp_of_le {p : Int} (h : p ≤ 0) : clamp p 0 100 = 0 := by
  unfold clamp
  omega

theorem clamp_of_ge {p : Int} (h : 100 ≤ p) : clamp p 0 100 = 100 := by
  unfold clamp
  omega

theorem clamp_of_mem {p : Int} (hlo : 0 ≤ p) (hhi : p ≤ 100) : clamp p 0 100 = p := by
  unfold clamp
  omega

/-- Settles O12: the duty is the quotient of R123, whose numerator is even plus 25 and so never half way between two
multiples of 50. -/
theorem dutyIsNearestAndClamped : Obligations.DutyIsNearestAndClamped := by
  intro p
  have hquot := duty_toNat p
  refine ⟨fun hlo => ?_, fun hhi => ?_, fun htop => ?_, duty_le p, fun hlo hhi => ?_⟩
  · rw [duty, clamp_of_le hlo]
    rfl
  · rw [duty, clamp_of_ge hhi]
    rfl
  · rw [htop] at hquot
    by_contra! hbelow
    have hclamp : (clamp p 0 100).toNat ≤ 99 := by
      unfold clamp
      omega
    have : (0x80 : Byte).toNat = 128 := rfl
    omega
  · rw [clamp_of_mem hlo hhi] at hquot
    have hnear : |100 * ((duty p).toNat : Int) - 128 * p| < 50 := abs_lt.mpr (by omega)
    omega

/-! ### Staging (R130) -/

theorem digitCount_pos (dc : BitVec 8) : 0 < digitCount dc := by
  unfold digitCount
  cases target dc <;> decide

/-- Each position within the module and the slots is staged by itself. -/
theorem stagedBytes_getElem? (cfg : Config) {n i : Nat} (len : Nat) (cs : Vector Byte 6) (hn : i < n) (hi : i < 6) :
    (stagedBytes cfg n len cs)[i]? = some (if i < len then rom cfg cs[i] else 0x00) := by
  rw [stagedBytes, List.getElem?_map, List.getElem?_zipIdx, List.getElem?_take_of_lt hn]
  simp [hi]

/-- Settles O16: the data bytes of the staging transaction are R130's, one for each position. -/
theorem stagingIsAlwaysFull : Obligations.StagingIsAlwaysFull :=
  fun cfg dc len cs => ⟨stagedBytes cfg (digitCount dc) len cs, rfl,
    (stagedBytes_length _ _ _ _).trans (Nat.min_eq_left (digitCount_le_six dc)),
    fun _ hi hn => stagedBytes_getElem? cfg len cs hn hi⟩

/-- A text that fills all six slots leaves no position blank. -/
theorem stagedBytes_full (cfg : Config) (n : Nat) (cs : Vector Byte 6) :
    stagedBytes cfg n 6 cs = (cs.toList.take n).map (rom cfg) := by
  refine List.ext_getElem (by simp [stagedBytes_length]) fun i hi _ => ?_
  have hsix : i < 6 := by rw [stagedBytes_length] at hi; omega
  simp [stagedBytes, hsix]

/-! ### Decimal digits (R124) -/

/-- Character `k` is the digit of weight 10^(5-k). -/
theorem decimal_getElem (r : RandomWord) {k : Nat} (hk : k < 6) :
    (decimal r)[k] = digitCode (r.toNat / 10 ^ (5 - k) % 10) := by
  match k, hk with
  | 0, _ | 1, _ | 2, _ | 3, _ | 4, _ => rfl
  | 5, _ => simp [decimal]

theorem digitCode_mem {d : Nat} (hd : d < 10) : 0x30 ≤ digitCode d ∧ digitCode d ≤ 0x39 := by
  unfold digitCode
  constructor <;> bv_omega

theorem digitCode_ne_zero {d : Nat} (hpos : 1 ≤ d) (hd : d < 10) : digitCode d ≠ 0x30 := by
  unfold digitCode
  bv_omega

theorem mem_decimal {r : RandomWord} {c : Byte} (h : c ∈ (decimal r).toList) : 0x30 ≤ c ∧ c ≤ 0x39 := by
  obtain ⟨k, hk, rfl⟩ := List.mem_iff_getElem.mp h
  have hsix : k < 6 := by simpa using hk
  rw [Vector.getElem_toList, decimal_getElem r hsix]
  exact digitCode_mem (Nat.mod_lt _ (by decide))

/-- Settles O13: the digits are the quotients of R124; the value is below 10^6, so no digit is lost, and at least
10^5, so the first is not 0. -/
theorem decimalDigitsOfRandom : Obligations.DecimalDigitsOfRandom := by
  intro r hlo hhi
  refine ⟨r.toNat / 100000 % 10, r.toNat / 10000 % 10, r.toNat / 1000 % 10, r.toNat / 100 % 10, r.toNat / 10 % 10,
    r.toNat % 10, ?_, ?_, ?_, ?_, ?_, ?_, ?_, ?_, rfl, fun cfg dc => stagedBytes_full cfg (digitCount dc) (decimal r)⟩
  all_goals omega

/-- Settles O14: the staged codes are the leftmost of the six digits, and the first of the six is not '0'. -/
theorem wrandStagesDigitsOnly : Obligations.WrandStagesDigitsOnly := by
  intro cfg dc r hrng
  obtain ⟨hlo, hhi⟩ := (rngInRange_iff r).mp hrng
  have hfirst : ((decimal r).toList.take (digitCount dc)).head? = some (digitCode (r.toNat / 100000 % 10)) := by
    rw [List.head?_take, if_neg (Nat.ne_of_gt (digitCount_pos dc))]
    rfl
  refine ⟨(decimal r).toList.take (digitCount dc), ?_, fun c hc => mem_decimal (List.mem_of_mem_take hc), ?_,
    stagedBytes_full cfg (digitCount dc) (decimal r)⟩
  · simp [digitCount_le_six]
  · rw [hfirst, Ne, Option.some.injEq]
    exact digitCode_ne_zero (by omega) (by omega)

end Sys2Proof.Machine
end

section
/-! SUPPORT. The event list of a word by its opcode (spec/41_sequencer_commands.md R125). -/
namespace Sys2Proof.Machine

/-- The six character slots of a word as one list. -/
theorem slots_charField (w : CmdWord) :
    slots (charField w 0) (charField w 1) (charField w 2) (charField w 3) (charField w 4) (charField w 5) =
      Vector.ofFn fun i : Fin 6 => charField w i := rfl

theorem digitCount_eq (dc : BitVec 8) : digitCount dc = if dc = 4 then 4 else 6 := by
  split
  · next h => rw [h, digitCount_four]
  · next h => exact digitCount_other h

section
variable {cfg : Config} {w : CmdWord} {r : RandomWord}

theorem events_init (h : opField w = 1) :
    events cfg (decodeCmd w) r = setCur cfg.addr4 CUR_MAX ++ setCur cfg.addr6 CUR_MAX := by
  rw [decodeCmd_init h]
  rfl

theorem events_wtext (h : opField w = 2) :
    events cfg (decodeCmd w) r =
      stage cfg (dcField w) (lenField w).toNat (Vector.ofFn fun i => charField w i) ++ commit cfg (dcField w) := by
  rw [decodeCmd_wtext h, ← slots_charField]
  rfl

theorem events_wrand (h : opField w = 3) :
    events cfg (decodeCmd w) r = stage cfg (dcField w) 6 (decimal r) ++ commit cfg (dcField w) := by
  rw [decodeCmd_wrand h]
  rfl

theorem events_rstdisp (h : opField w = 4) :
    events cfg (decodeCmd w) r = resetTxn cfg (dcField w) ++ setCur (busAddr cfg (dcField w)) CUR_MAX := by
  rw [decodeCmd_rstdisp h]
  rfl

theorem events_setbrt (h : opField w = 5) :
    events cfg (decodeCmd w) r = setPwm cfg (dcField w) (pctField w).toInt := by
  rw [decodeCmd_setbrt h]
  rfl

theorem events_of_isIllegal {i : Instr} (h : i.isIllegal = true) : events cfg i r = [] := by
  cases i
  case illegal0 | illegal6 | illegal7 | illegal8 | illegal9 | illegalA | illegalB | illegalC | illegalD | illegalE |
      illegalF => rfl
  all_goals cases h

end

/-- Staging and committing: the only list whose length depends on the module. -/
theorem stage_commit_length (cfg : Config) (dc : BitVec 8) (len : Nat) (cs : Vector Byte 6) :
    (stage cfg dc len cs ++ commit cfg dc).length = if dc = 4 then 11 else 13 := by
  rw [List.length_append, stage_length, digitCount_eq]
  split <;> rfl

/-- Settles O15: the opcode gives the command, and the command its sub-sequences. -/
theorem eventListsOfCommands : Obligations.EventListsOfCommands := by
  refine fun cfg w r => ⟨fun h => ?_, fun h => ?_, fun h => ?_, fun h => ?_, fun h => ?_,
    fun h => events_of_isIllegal (decodeCmd_isIllegal h)⟩
  · rw [events_init h]
    exact ⟨rfl, rfl⟩
  · rw [events_wtext h]
    exact ⟨rfl, stage_commit_length _ _ _ _⟩
  · rw [events_wrand h]
    exact ⟨rfl, stage_commit_length _ _ _ _⟩
  · rw [events_rstdisp h]
    exact ⟨rfl, rfl⟩
  · rw [events_setbrt h]
    exact ⟨rfl, rfl⟩

end Sys2Proof.Machine
end

section
/-! SUPPORT. What a chip makes of whole transactions whose bytes are all delivered (spec/60_exceptions.md R181,
R186). -/
namespace Sys2Proof.Machine

/-- The chip at `a` after the events `es`, all of them delivered, when the transaction `o` is open before them; none
where the machine would stop. -/
def Chip.hearAll (a : BusAddr) (d : ChipDefaults) : Option OpenTxn → List Event → Chip → Option Chip
  | _, [], c => some c
  | _, .start b :: es, c => Chip.hearAll a d (some { addr := b, ptrSet := false, cut := false }) es c
  | some o, .byte b :: es, c =>
    (c.hear (o.reaches a) d o.ptrSet b).bind (Chip.hearAll a d (some { o with ptrSet := true }) es)
  | none, .byte _ :: _, _ => none
  | _, .stop :: es, c => Chip.hearAll a d none es c

/-- The chip of `u` after the events `es`, all of them delivered, from the state `s` on. -/
def State.heard (s : State) (u : DisplayTarget) (es : List Event) : Option Chip :=
  Chip.hearAll (s.cfg.addr u) (s.cfg.defaults u) s.txn es (s.chip u)

theorem State.heard_nil (s : State) (u : DisplayTarget) : s.heard u [] = some (s.chip u) := by
  rw [State.heard, Chip.hearAll]

theorem State.heard_congr {s t : State} (hcfg : t.cfg = s.cfg) (htxn : t.txn = s.txn) {u : DisplayTarget}
    (hchip : t.chip u = s.chip u) (es : List Event) : t.heard u es = s.heard u es := by
  rw [State.heard, State.heard, hcfg, htxn, hchip]

theorem OpenTxn.cutUnless_true (o : OpenTxn) : o.cutUnless true = o := by simp [OpenTxn.cutUnless]

/-- An event that is carried and delivered is the next one that each chip hears. -/
theorem carry_heard {s t : State} {e : Event} (h : carry e s = .next t) (hdeliver : s.inputs.deliver = true)
    (u : DisplayTarget) (es : List Event) : t.heard u es = s.heard u (e :: es) := by
  cases e with
  | start a =>
    cases h
    simp [State.heard, Chip.hearAll, hdeliver]
  | stop =>
    cases h
    simp [State.heard, Chip.hearAll]
  | byte b =>
    cases ho : s.txn with
    | none => simp [carry, ho] at h
    | some o =>
      simp only [carry, ho, hdeliver, OpenTxn.cutUnless_true] at h
      obtain ⟨hcfg, htxn, hhear⟩ := carryByte_next h
      rw [State.heard, State.heard, hcfg, htxn, ho, Chip.hearAll, hhear u, Option.bind_some]

/-! ### Whole transactions -/

section
variable {a : BusAddr} (d : ChipDefaults) (es : List Event)

/-- The rest of a transaction that does not reach the chip. -/
theorem Chip.hearAll_deaf {o : OpenTxn} (h : o.reaches a = false) (bs : List Byte) (c : Chip) :
    Chip.hearAll a d (some o) (bs.map .byte ++ .stop :: es) c = Chip.hearAll a d none es c := by
  induction bs generalizing o with
  | nil => rfl
  | cons b bs ih =>
    rw [List.map_cons, List.cons_append, Chip.hearAll, h, Chip.hear_deaf, Option.bind_some]
    exact ih h

/-- The rest of a transaction to the chip, past its register byte. -/
theorem Chip.hearAll_data {o : OpenTxn} (h : o.reaches a = true) (hset : o.ptrSet = true) (bs : List Byte) (c : Chip) :
    Chip.hearAll a d (some o) (bs.map .byte ++ .stop :: es) c =
      (Chip.receiveData d bs c).bind (Chip.hearAll a d none es) := by
  induction bs generalizing o c with
  | nil => rfl
  | cons b bs ih =>
    rw [List.map_cons, List.cons_append, Chip.hearAll, h, hset, Chip.hear_data, Chip.receiveData, Option.bind_assoc]
    exact Option.bind_congr fun c' _ => ih (o := { o with ptrSet := true }) h rfl c'

theorem txnEvents_append (b : BusAddr) (bs : List Byte) :
    txnEvents b bs ++ es = .start b :: (bs.map .byte ++ .stop :: es) := by simp [txnEvents]

/-- A chip receives a transaction with its own address (R186). -/
theorem Chip.hearAll_own (o : Option OpenTxn) (bs : List Byte) (c : Chip) :
    Chip.hearAll a d o (txnEvents a bs ++ es) c = (c.receiveAll d bs).bind (Chip.hearAll a d none es) := by
  have hreach (p : Bool) : OpenTxn.reaches { addr := a, ptrSet := p, cut := false } a = true :=
    (OpenTxn.reaches_iff _ _).mpr ⟨rfl, rfl⟩
  rw [txnEvents_append, Chip.hearAll]
  cases bs with
  | nil => rfl
  | cons r data =>
    rw [List.map_cons, List.cons_append, Chip.hearAll, hreach, Chip.hear_first, Option.bind_some]
    exact Chip.hearAll_data d es (hreach true) rfl data _

/-- A transaction with another address passes a chip by (R186). -/
theorem Chip.hearAll_other {b : BusAddr} (hne : b ≠ a) (o : Option OpenTxn) (bs : List Byte) (c : Chip) :
    Chip.hearAll a d o (txnEvents b bs ++ es) c = Chip.hearAll a d none es c := by
  rw [txnEvents_append, Chip.hearAll]
  exact Chip.hearAll_deaf d es (by simp [OpenTxn.reaches, hne]) bs c

end

end Sys2Proof.Machine
end

section
/-! SUPPORT. A command from acceptance to completion (spec/41_sequencer_commands.md R160, R162, R167): the events left
are handed over one a step. -/
namespace Sys2Proof.Machine

/-! ### The environment's move in a planned step -/

theorem State.sample_planned {s : State} {i : Inputs} {rest : List Inputs} (h : s.schedule = i :: rest) :
    s.sample.inputs = i ∧ s.sample.schedule = rest := by
  have hnext : s.nextInputs = (s.withInputs i).withSchedule rest := by rw [State.nextInputs, h]
  obtain ⟨-, -, -, h4, -⟩ := s.nextInputs.powerCycle4_frame
  obtain ⟨-, -, -, h6, -⟩ := s.nextInputs.powerCycle4.powerCycle6_frame
  exact ⟨by rw [State.sample_inputs, hnext]; rfl, (h6.trans h4).trans (by rw [hnext]; rfl)⟩

theorem Inputs.cycles_iff {i : Inputs} : (∀ u, i.cycles u = false) ↔ i.cycle4 = false ∧ i.cycle6 = false :=
  ⟨fun h => ⟨h .fourDigit, h .sixDigit⟩, fun ⟨h4, h6⟩ u => match u with | .fourDigit => h4 | .sixDigit => h6⟩

theorem Inputs.smooth_iff {i : Inputs} :
    i.smooth = true ↔ i.accepting = true ∧ i.deliver = true ∧ ∀ u, i.cycles u = false := by
  simp only [Inputs.smooth, Bool.and_eq_true, Bool.not_eq_true', and_assoc, Inputs.cycles_iff]

/-- Without a power cycle the environment's move leaves the transaction and the chips alone. -/
theorem State.sample_quiet {s : State} (h : ∀ u, s.sample.inputs.cycles u = false) :
    s.sample.txn = s.txn ∧ ∀ u, s.sample.chip u = s.chip u := by
  refine ⟨?_, fun u => by rw [State.sample_chip, h]; rfl⟩
  obtain ⟨h4, h6⟩ := Inputs.cycles_iff.mp h
  obtain ⟨-, -, hinputs, -, -⟩ := s.nextInputs.powerCycle4_frame
  obtain ⟨-, -, htxn, -, -⟩ := s.nextInputs_frame
  rw [State.sample_inputs] at h4 h6
  rw [State.sample, State.powerCycle6_txn, hinputs, h6, State.powerCycle4_txn, h4]
  exact htxn

theorem State.sample_heard {s : State} (h : ∀ u, s.sample.inputs.cycles u = false) (v : DisplayTarget)
    (es : List Event) : s.sample.heard v es = s.heard v es := by
  obtain ⟨htxn, hchip⟩ := State.sample_quiet h
  exact State.heard_congr s.sample_frame.1 htxn (hchip v) es

/-! ### The events left -/

/-- The events that the block has still to hand over. -/
def State.remaining (s : State) : List Event := if s.seq.active then s.eventList.drop s.seq.upc.toNat else []

theorem State.remaining_congr {s t : State} (hcfg : t.cfg = s.cfg) (hseq : t.seq = s.seq) :
    t.remaining = s.remaining := by
  obtain ⟨hlist, -⟩ := State.account_congr hcfg hseq
  rw [State.remaining, State.remaining, hlist, hseq]

theorem State.remaining_cons {s : State} {e : Event} {es : List Event} (h : s.remaining = e :: es) :
    s.seq.active = true ∧ s.presented = some e ∧ s.eventList.drop (s.seq.upc.toNat + 1) = es := by
  unfold State.remaining at h
  split at h
  · next hactive =>
    have hdrop : (s.eventList.drop s.seq.upc.toNat)[0]? = some e := by rw [h]; rfl
    refine ⟨hactive, by simpa [State.presented] using hdrop, ?_⟩
    rw [← List.tail_drop, h, List.tail_cons]
  · cases h

/-- In a state of the invariant an active block has an event left (R24). -/
theorem State.Inv.idle_of_remaining {s : State} (hs : s.Inv) (h : s.remaining = []) : s.seq.active = false := by
  by_contra hactive
  rw [Bool.not_eq_false] at hactive
  obtain ⟨-, hupc, -⟩ := (State.seqAgrees_of_active hactive).mp hs.sequencer
  rw [State.remaining, if_pos hactive, List.drop_eq_nil_iff] at h
  omega

theorem State.advance_remaining {s : State} {e : Event} {es : List Event} (h : s.remaining = e :: es) :
    s.advance.remaining = es := by
  obtain ⟨hactive, he, hdrop⟩ := State.remaining_cons h
  by_cases hlast : s.seq.upc.toNat + 1 = s.eventList.length
  · rw [State.remaining, State.advance_last hlast, ← hdrop, hlast, List.drop_length]
    rfl
  · have hmore : s.seq.upc.toNat + 1 < s.eventList.length :=
      Nat.lt_of_le_of_ne (State.upc_lt_of_presented he) hlast
    have hseq := State.advance_more hlast
    have hlist : s.advance.eventList = s.eventList := by
      rw [State.eventList, hseq]
      rfl
    rw [State.remaining, hlist, hseq, if_pos hactive, State.upc_succ_toNat hmore, hdrop]

/-! ### The end of a command -/

/-- The sequencer once its command is done. -/
def Sequencer.finished (q : Sequencer) : Sequencer := { q with active := false, upc := 0 }

theorem Sequencer.finished_advance (q : Sequencer) (n : Nat) : (q.advance n).finished = q.finished := by
  unfold Sequencer.advance
  split <;> rfl

/-- An idle block of the invariant is done, and has no transaction open. -/
theorem State.Inv.idle_finished {s : State} (hs : s.Inv) (hidle : s.seq.active = false) :
    s.seq = s.seq.finished ∧ s.txn = none := by
  have hupc : s.seq.upc = 0 := (State.seqAgrees_of_idle hidle).mp hs.sequencer
  have hbus := s.busAgrees_iff.mp hs.bus
  rw [State.pendingTxn_of_idle hidle] at hbus
  refine ⟨?_, hbus⟩
  rw [Sequencer.finished, ← hidle, ← hupc]

/-! ### The steps of a run -/

/-- With an event left and a bus master that accepts, a step hands the event over. -/
theorem step_emission {s : State} {i : Inputs} {rest : List Inputs} {e : Event} {es : List Event} (hs : s.Inv)
    (hplan : s.schedule = i :: rest) (haccept : i.accepting = true) (hleft : s.remaining = e :: es) :
    ∃ t, step s = .next t ∧ s.handedOver = some e ∧ t.schedule = rest ∧ t.remaining = es ∧
      t.seq.finished = s.seq.finished ∧ (i.smooth = true → ∀ v, t.heard v es = s.heard v (e :: es)) := by
  obtain ⟨hinputs, hschedule⟩ := State.sample_planned hplan
  obtain ⟨hready, hrst⟩ := Bool.and_eq_true_iff.mp haccept
  rw [Bool.not_eq_true', ← hinputs] at hrst
  rw [← hinputs] at hready
  rw [← State.remaining_congr s.sample_frame.1 s.sample_frame.2] at hleft
  obtain ⟨hactive, he, -⟩ := State.remaining_cons hleft
  have hbus := s.sample.busAgrees_iff.mp (State.sample_inv hs).bus
  obtain ⟨u, hu⟩ := carry_progress hbus (State.presented_permits hactive he)
  obtain ⟨hcfg, hseq, -, hsched⟩ := carry_frame hu
  refine ⟨u.advance, ?_, State.handedOver_eq_some.mpr ⟨hrst, hactive, hready, he⟩, hsched.trans hschedule,
    State.advance_remaining ((State.remaining_congr hcfg hseq).trans hleft), ?_, fun hsmooth v => ?_⟩
  · rw [step_eq]
    simp [sequencerPhase, hrst, hactive, hready, emit, he, hu]
  · rw [State.advance, State.withSeq_seq, Sequencer.finished_advance, hseq, s.sample_frame.2]
  · obtain ⟨-, hdeliver, hcycles⟩ := Inputs.smooth_iff.mp hsmooth
    have hquiet : ∀ v, s.sample.inputs.cycles v = false := by rwa [hinputs]
    have hcarried : s.sample.inputs.deliver = true := by rw [hinputs, hdeliver]
    calc u.advance.heard v es = u.heard v es := State.heard_congr rfl rfl (u.advance_chip v) es
      _ = s.sample.heard v (e :: es) := carry_heard hu hcarried v es
      _ = s.heard v (e :: es) := State.sample_heard hquiet v _

theorem runSteps_succ {s t : State} (h : step s = .next t) (k : Nat) : runSteps (k + 1) s = runSteps k t := by
  rw [runSteps, h]

theorem trace_succ {s t : State} (h : step s = .next t) (k : Nat) :
    trace (k + 1) s = s.handedOver.toList ++ trace k t := by
  rw [trace, h]

/-- A bus master that accepts in as many steps as events are left is handed exactly these, and then the block is
done. -/
theorem run_remaining {s : State} {coming rest : List Inputs} (hs : s.Inv) (hplan : s.schedule = coming ++ rest)
    (haccept : coming.all Inputs.accepting = true) (henough : coming.length = s.remaining.length) :
    ∃ t, runSteps coming.length s = .next t ∧ trace coming.length s = s.remaining ∧ t.seq = s.seq.finished ∧
      t.txn = none ∧ t.schedule = rest ∧ t.cfg = s.cfg ∧
      (coming.all Inputs.smooth = true → ∀ u, s.heard u s.remaining = some (t.chip u)) := by
  induction coming generalizing s with
  | nil =>
    have hnil : s.remaining = [] := List.length_eq_zero_iff.mp henough.symm
    obtain ⟨hseq, htxn⟩ := hs.idle_finished (hs.idle_of_remaining hnil)
    exact ⟨s, rfl, hnil.symm, hseq, htxn, hplan, rfl, fun _ u => hnil ▸ s.heard_nil u⟩
  | cons i coming ih =>
    obtain ⟨e, es, hleft⟩ := List.exists_cons_of_length_pos (l := s.remaining) (by simp [← henough])
    rw [List.all_cons, Bool.and_eq_true_iff] at haccept
    obtain ⟨u, hstep, hover, hsched, hrem, hfin, hheard⟩ := step_emission hs hplan haccept.1 hleft
    have hlength : coming.length = u.remaining.length := by
      rw [hleft] at henough
      simpa [hrem] using henough
    obtain ⟨t, hrun, htrace, hseq, htxn, hrest, hcfg, hchips⟩ :=
      ih (stepKeepsTheInvariant s u hs hstep) hsched haccept.2 hlength
    refine ⟨t, (runSteps_succ hstep _).trans hrun, ?_, hseq.trans hfin, htxn, hrest,
      hcfg.trans (strapsNeverChange s _ hstep), fun hsmooth v => ?_⟩
    · rw [List.length_cons, trace_succ hstep, htrace, hover, hrem, hleft]
      rfl
    · rw [List.all_cons, Bool.and_eq_true_iff] at hsmooth
      rw [hleft, ← hheard hsmooth.1 v, ← hrem]
      exact hchips hsmooth.2 v

/-! ### Acceptance -/

/-- No block admits an illegal word. -/
theorem State.admits_illegal {s : State} {w : CmdWord} {r : RandomWord} (h : (decodeCmd w).isIllegal = true) :
    s.admits w r = false := by
  unfold State.admits
  split
  case h_6 => rfl
  all_goals
    next hw => rw [hw] at h; cases h

theorem Inputs.offers_iff {i : Inputs} {w : CmdWord} :
    i.offers w = true ↔ i.cmdValid = true ∧ i.cmdWord = w ∧ i.rst = false ∧ ∀ u, i.cycles u = false := by
  simp only [Inputs.offers, Bool.and_eq_true, Bool.not_eq_true', beq_iff_eq, and_assoc, Inputs.cycles_iff]

/-- WTEXT, RSTDISP and SETBRT are admitted whenever the bus is open, and latch no random value. -/
theorem State.admits_plain {s : State} {w : CmdWord} (r : RandomWord)
    (hop : opField w = 2 ∨ opField w = 4 ∨ opField w = 5) :
    s.admits w r = s.seq.initDone ∧ latchedRandom w r = 0 := by
  obtain hop | hop | hop := hop
  · simp [State.admits, latchedRandom, decodeCmd_wtext hop]
  · simp [State.admits, latchedRandom, decodeCmd_rstdisp hop]
  · simp [State.admits, latchedRandom, decodeCmd_setbrt hop]

/-- A word that is admitted is latched, and the bus is open then (R160). -/
theorem State.answer_admitted {s : State} {w : CmdWord} {r : RandomWord} (h : s.admits w r = true) :
    s.seq.answer w r = { s.seq.latch w (latchedRandom w r) with initDone := true } := by
  obtain hop | hop | hop | hop := opField_checks w
  · simp [State.admits_illegal (decodeCmd_isIllegal hop)] at h
  · simp [Sequencer.answer, latchedRandom, decodeCmd_init hop, hop]
  · simp only [State.admits, latchedRandom, decodeCmd_wrand hop, Bool.and_eq_true_iff] at h ⊢
    obtain ⟨hinit, hrng⟩ := h
    rw [Sequencer.answer_wrand hinit hop, if_pos hrng, ← hinit]
    rfl
  · obtain ⟨hadmits, hrnd⟩ := State.admits_plain r hop
    have hinit : s.seq.initDone = true := hadmits ▸ h
    rw [Sequencer.answer_open hinit hop, hrnd, ← hinit]
    rfl

/-- An idle block that is presented a word it admits latches the word, and hands nothing over yet. -/
theorem State.Runs.accepted {s : State} {w : CmdWord} {i : Inputs} {coming rest : List Inputs}
    (h : s.Runs w i coming rest) :
    ∃ t, step s = .next t ∧ s.handedOver = none ∧ t.schedule = coming ++ rest ∧
      t.seq = { s.seq.latch w (latchedRandom w i.rngValue) with initDone := true } ∧
      (∀ u es, t.heard u es = s.heard u es) := by
  obtain ⟨hinputs, hschedule⟩ := State.sample_planned h.planned
  obtain ⟨hvalid, hword, hrst, hcycles⟩ := Inputs.offers_iff.mp h.presented
  rw [← hinputs] at hvalid hword hrst hcycles
  have hseq := s.sample_frame.2
  have hidle : s.sample.seq.active = false := by rw [hseq]; exact h.idle
  have hready : s.sample.cmdReady = true := (State.cmdReady_iff _).mpr ⟨hidle, hrst⟩
  refine ⟨s.sample.withSeq { s.seq.latch w (latchedRandom w i.rngValue) with initDone := true }, ?_, ?_, hschedule,
    rfl, fun u es => ?_⟩
  · rw [step_eq, sequencerPhase_presented hrst hidle hvalid, exec_decodeCmd hready, hword, hseq, hinputs,
      State.answer_admitted h.admitted]
  · rw [Option.eq_none_iff_forall_not_mem]
    intro e he
    obtain ⟨-, hactive, -⟩ := State.handedOver_eq_some.mp he
    simp [hidle] at hactive
  · exact (State.heard_congr rfl rfl (s.sample.withSeq_chip _ u) es).trans (State.sample_heard hcycles u es)

/-- A run of a command: its acceptance, and then its events one a step. -/
theorem State.Runs.completes {s : State} {w : CmdWord} {i : Inputs} {coming rest : List Inputs}
    (h : s.Runs w i coming rest) (haccept : coming.all Inputs.accepting = true) :
    ∃ t, runSteps (1 + coming.length) s = .next t ∧
      trace (1 + coming.length) s = events s.cfg (decodeCmd w) (latchedRandom w i.rngValue) ∧
      t.seq = { s.seq with cmd := w, rnd := latchedRandom w i.rngValue, upc := 0, active := false,
                           initDone := true } ∧
      t.txn = none ∧ t.schedule = rest ∧ t.cfg = s.cfg ∧
      (coming.all Inputs.smooth = true →
        ∀ u, s.heard u (events s.cfg (decodeCmd w) (latchedRandom w i.rngValue)) = some (t.chip u)) := by
  obtain ⟨t₀, hstep, hover, hsched, hseq, hheard⟩ := h.accepted
  have hcfg := strapsNeverChange s t₀ hstep
  have hrem : t₀.remaining = events s.cfg (decodeCmd w) (latchedRandom w i.rngValue) := by
    rw [State.remaining, State.eventList, hseq, hcfg]
    rfl
  obtain ⟨t, hrun, htrace, hfin, htxn, hrest, hcfg', hchips⟩ :=
    run_remaining (stepKeepsTheInvariant s t₀ h.inv hstep) hsched haccept (by rw [hrem]; exact h.enough)
  rw [Nat.add_comm]
  refine ⟨t, (runSteps_succ hstep _).trans hrun, ?_, ?_, htxn, hrest, hcfg'.trans hcfg, fun hsmooth u => ?_⟩
  · rw [trace_succ hstep, hover, htrace, hrem]
    rfl
  · rw [hfin, hseq]
    rfl
  · rw [← hheard, ← hrem]
    exact hchips hsmooth u

/-- Settles O50: the run of a command, whatever is delivered. -/
theorem commandRunsToCompletion : Obligations.CommandRunsToCompletion := by
  intro s w i coming rest h haccept
  obtain ⟨t, hrun, htrace, hseq, htxn, hrest, hcfg, -⟩ := h.completes haccept
  exact ⟨t, hrun, htrace, hseq, htxn, hrest, hcfg⟩

end Sys2Proof.Machine
end

section
/-! SUPPORT. What each command has made of the chips once it has run with every byte delivered
(spec/41_sequencer_commands.md R140, R145, R150, R153, R155, spec/60_exceptions.md R187 to R191). -/
namespace Sys2Proof.Machine

theorem all_accepting_of_smooth {coming : List Inputs} (h : coming.all Inputs.smooth = true) :
    coming.all Inputs.accepting = true := by
  rw [List.all_eq_true] at h ⊢
  exact fun i hi => (Inputs.smooth_iff.mp (h i hi)).1

/-- Distinct addresses tell the chips apart. -/
theorem State.Inv.addr_ne {s : State} (hs : s.Inv) {u v : DisplayTarget} (h : u ≠ v) :
    s.cfg.addr u ≠ s.cfg.addr v := by
  cases u <;> cases v
  case fourDigit.sixDigit => exact hs.addrs
  case sixDigit.fourDigit => exact hs.addrs.symm
  all_goals exact absurd rfl h

/-- Before a command runs no transaction is open, and afterwards each chip has heard the command's events. -/
theorem State.Runs.chips {s : State} {w : CmdWord} {i : Inputs} {coming rest : List Inputs}
    (h : s.Runs w i coming rest) (hsmooth : coming.all Inputs.smooth = true) :
    ∃ t, runSteps (1 + coming.length) s = .next t ∧
      ∀ u, Chip.hearAll (s.cfg.addr u) (s.cfg.defaults u) none
        (events s.cfg (decodeCmd w) (latchedRandom w i.rngValue)) (s.chip u) = some (t.chip u) := by
  obtain ⟨t, hrun, -, -, -, -, -, hchips⟩ := h.completes (all_accepting_of_smooth hsmooth)
  refine ⟨t, hrun, fun u => ?_⟩
  rw [← (h.inv.idle_finished h.idle).2]
  exact hchips hsmooth u

/-! ### Lists of one transaction, and of two -/

section
variable (d : ChipDefaults) (c : Chip) (bs bs' : List Byte)

theorem Chip.hearAll_own_one (a : BusAddr) :
    Chip.hearAll a d none (txnEvents a bs) c = c.receiveAll d bs := by
  rw [← List.append_nil (txnEvents a bs), Chip.hearAll_own]
  exact Option.bind_fun_some _

theorem Chip.hearAll_own_two (a : BusAddr) :
    Chip.hearAll a d none (txnEvents a bs ++ txnEvents a bs') c =
      (c.receiveAll d bs).bind (Chip.receiveAll d bs') := by
  rw [Chip.hearAll_own]
  exact Option.bind_congr fun c' _ => Chip.hearAll_own_one d c' bs' a

theorem Chip.hearAll_other_one {a b : BusAddr} (hne : b ≠ a) :
    Chip.hearAll a d none (txnEvents b bs) c = some c := by
  rw [← List.append_nil (txnEvents b bs), Chip.hearAll_other d [] hne]
  rfl

theorem Chip.hearAll_other_two {a b : BusAddr} (hne : b ≠ a) :
    Chip.hearAll a d none (txnEvents b bs ++ txnEvents b bs') c = some c := by
  rw [Chip.hearAll_other d _ hne]
  exact Chip.hearAll_other_one d c bs' hne

end

/-! ### The transactions of a command (R187 to R191) -/

section
variable (d : ChipDefaults) (c : Chip) (b : Byte)

theorem Chip.receiveAll_commit : c.receiveAll d [REG_COMMIT, b] =
    some { c with live := c.stg, ptr := REG_COMMIT + 1 } := rfl

theorem Chip.receiveAll_setCur : c.receiveAll d [REG_LIGHT, b] = some { c with light := b, ptr := REG_LIGHT + 1 } := rfl

theorem Chip.receiveAll_setPwm : c.receiveAll d [REG_PWM, b] = some { c with pwm := b, ptr := REG_PWM + 1 } := rfl

theorem Chip.receiveAll_reset : c.receiveAll d [REG_RESET, b] =
    some { stg := d.stg, live := d.live, pwm := d.pwm, light := d.light, ptr := REG_RESET + 1 } := rfl

end

/-! ### INIT -/

theorem State.current_of_limit {s : State} {u : DisplayTarget} (h : (s.chip u).light = CUR_MAX) :
    s.current u = some 20 := by
  rw [State.current, h]
  exact if_pos rfl

/-- Settles O51: each chip receives one of the two transactions, and the other passes it by. -/
theorem initLimitsBothChips : Obligations.InitLimitsBothChips := by
  intro s w i coming rest h hsmooth hop
  obtain ⟨t, hrun, hchips⟩ := h.chips hsmooth
  rw [events_init hop, setCur, setCur] at hchips
  have h4 := hchips .fourDigit
  rw [Config.addr, Chip.hearAll_own, Chip.receiveAll_setCur, Option.bind_some,
    Chip.hearAll_other_one _ _ _ h.inv.addrs.symm, Option.some.injEq] at h4
  have h6 := hchips .sixDigit
  rw [Config.addr, Chip.hearAll_other _ _ h.inv.addrs, Chip.hearAll_own_one, Chip.receiveAll_setCur,
    Option.some.injEq] at h6
  refine ⟨t, hrun, ?_, ?_, State.current_of_limit (by rw [← h4]), State.current_of_limit (by rw [← h6])⟩
  · rw [show t.chip4 = _ from h4.symm]
    rfl
  · rw [show t.chip6 = _ from h6.symm]
    rfl

/-! ### WTEXT and WRAND -/

/-- After a run with the events of a staging and a commit the selected chip shows what was staged. -/
theorem State.Runs.shows {s : State} {w : CmdWord} {i : Inputs} {coming rest : List Inputs} {dc : BitVec 8} {len : Nat}
    {cs : Vector Byte 6} (h : s.Runs w i coming rest) (hsmooth : coming.all Inputs.smooth = true)
    (hevents : events s.cfg (decodeCmd w) (latchedRandom w i.rngValue) = stage s.cfg dc len cs ++ commit s.cfg dc) :
    ∃ t, runSteps (1 + coming.length) s = .next t ∧
      (∀ (k : Nat) (h : k < 6), (t.chip (target dc)).live[k] =
        if k < digitCount dc then (if k < len then rom s.cfg cs[k] else 0x00) else (s.chip (target dc)).stg[k]) ∧
      (t.chip (target dc)).stg = (t.chip (target dc)).live ∧ (t.chip (target dc)).pwm = (s.chip (target dc)).pwm ∧
      (t.chip (target dc)).light = (s.chip (target dc)).light ∧ ∀ u, u ≠ target dc → t.chip u = s.chip u := by
  obtain ⟨t, hrun, hchips⟩ := h.chips hsmooth
  have hlength : (stagedBytes s.cfg (digitCount dc) len cs).length = digitCount dc :=
    (stagedBytes_length _ _ _ _).trans (Nat.min_eq_left (digitCount_le_six dc))
  rw [hevents, stage, commit] at hchips
  have hselected := hchips (target dc)
  rw [busAddr, Chip.hearAll_own_two, Chip.receiveAll_stage _ _ (hlength.trans_le (digitCount_le_six dc)),
    Option.bind_some, Chip.receiveAll_commit, Option.some.injEq] at hselected
  refine ⟨t, hrun, fun k hk => ?_, ?_, ?_, ?_, fun u hu => ?_⟩
  · rw [← hselected]
    refine (getElem_overlay _ _ hk).trans ?_
    split
    · next hn => rw [stagedBytes_getElem? s.cfg len cs hn hk, Option.getD_some]
    · next hn => rw [List.getElem?_eq_none (by omega), Option.getD_none]
  · rw [← hselected]
  · rw [← hselected]
    rfl
  · rw [← hselected]
    rfl
  · exact Option.some.inj ((hchips u).symm.trans (Chip.hearAll_other_two _ _ _ _ (h.inv.addr_ne hu.symm)))

/-- Settles O52: the staged bytes are the glyphs of the word's character slots. -/
theorem wtextShowsTheText : Obligations.WtextShowsTheText := by
  intro s w i coming rest h hsmooth hop
  obtain ⟨t, hrun, hlive, hframe⟩ := h.shows hsmooth (events_wtext hop)
  refine ⟨t, hrun, fun k hk => ?_, hframe⟩
  rw [hlive k hk, Vector.getElem_ofFn]

/-- Settles O53: the staged bytes are the glyphs of the latched value's digits, and what is latched is the
`rng_value` of the acceptance step. -/
theorem wrandShowsTheLeadingDigits : Obligations.WrandShowsTheLeadingDigits := by
  intro s w i coming rest h hsmooth hop
  have hrnd : latchedRandom w i.rngValue = i.rngValue := by simp [latchedRandom, decodeCmd_wrand hop]
  obtain ⟨t, hrun, hlive, hframe⟩ := h.shows hsmooth (events_wrand hop)
  refine ⟨t, hrun, fun k hk => ?_, hframe⟩
  rw [hlive k hk, if_pos hk, decimal_getElem _ hk, hrnd]
  rfl

/-! ### RSTDISP -/

theorem defaults_target (cfg : Config) (dc : BitVec 8) :
    cfg.defaults (target dc) = if dc = 4 then cfg.defaults4 else cfg.defaults6 := by
  unfold target
  split <;> rfl

/-- Settles O54: the reset transaction puts the defaults back, and the current limit follows. -/
theorem rstdispRestoresDefaultsAndLimit : Obligations.RstdispRestoresDefaultsAndLimit := by
  intro s w i coming rest h hsmooth hop
  obtain ⟨t, hrun, hchips⟩ := h.chips hsmooth
  rw [events_rstdisp hop, resetTxn, setCur] at hchips
  refine ⟨t, hrun, ?_, fun u hu => ?_⟩
  · rintro d rfl
    have hselected := hchips (target (dcField w))
    rw [busAddr, Chip.hearAll_own_two, Chip.receiveAll_reset, Option.bind_some, Chip.receiveAll_setCur,
      Option.some.injEq] at hselected
    rw [← hselected, defaults_target]
    rfl
  · exact Option.some.inj ((hchips u).symm.trans (Chip.hearAll_other_two _ _ _ _ (h.inv.addr_ne hu.symm)))

/-! ### SETBRT -/

/-- Settles O55: the one transaction writes the duty of the word's percent. -/
theorem setbrtSetsTheDuty : Obligations.SetbrtSetsTheDuty := by
  intro s w i coming rest h hsmooth hop
  obtain ⟨t, hrun, hchips⟩ := h.chips hsmooth
  rw [events_setbrt hop, setPwm] at hchips
  refine ⟨t, hrun, ?_, fun u hu => ?_⟩
  · have hselected := hchips (target (dcField w))
    rw [busAddr, Chip.hearAll_own_one, Chip.receiveAll_setPwm, Option.some.injEq] at hselected
    rw [← hselected]
  · exact Option.some.inj ((hchips u).symm.trans (Chip.hearAll_other_one _ _ _ (h.inv.addr_ne hu.symm)))

end Sys2Proof.Machine
end

section
/-! SUPPORT. The three rejections (spec/60_exceptions.md R171 to R173): an idle block sets one sticky bit and nothing
else. -/
namespace Sys2Proof.Machine

/-- Settles O21: every illegal opcode has the one meaning, an offered rejection, and a ready block takes it. -/
theorem illegalOpcodesAreRejected : Obligations.IllegalOpcodesAreRejected := by
  intro i s hillegal hready
  rw [exec_of_isIllegal hillegal, offer_ready hready]
  rfl

/-- While the bus is not open a legal command but INIT meets the check of R172 before any other. -/
theorem exec_of_needsInit {i : Instr} (h : i.needsInit = true) {s : State} (hinit : s.seq.initDone = false) :
    exec i s = offer s (reject .noinit s) := by
  cases i
  case wtext | wrand | rstdisp | setbrt => exact congrArg (offer s) (ifInitDone_closed hinit _)
  all_goals cases h

theorem offer_next {s t : State} {r : Result} (h : offer s r = .next t) : r = .next t ∨ t = s := by
  unfold offer at h
  split at h
  · exact .inl h
  · exact .inr (Host.Outcome.next.inj h).symm

/-- Settles O22: the commands that need INIT meet its check first, and an accepted INIT latches without touching the
error bits. -/
theorem commandsBeforeInitAreRejected : Obligations.CommandsBeforeInitAreRejected := by
  constructor
  · intro i s hneeds hready hinit
    rw [exec_of_needsInit hneeds hinit, offer_ready hready]
    rfl
  · intro ign s t h
    obtain haccepted | rfl := offer_next h
    · cases haccepted
      rfl
    · rfl

/-- Settles O23: WRAND's own check stands between the open bus and the latch. -/
theorem randomOutOfRangeIsRejected : Obligations.RandomOutOfRangeIsRejected := by
  intro dc ign s hready hinit hout
  have hrng : rngInRange s.inputs.rngValue = false :=
    Bool.eq_false_iff.mpr fun h => hout ((rngInRange_iff _).mp h)
  rw [exec, execWrand, offer_ready hready, ifInitDone_open hinit, ifRngInRange_out hrng]
  rfl

end Sys2Proof.Machine
end

section
/-! SUPPORT. What a module shows of its chip's live data, and what one register write makes of a chip
(spec/60_exceptions.md R187 to R193). -/
namespace Sys2Proof.Machine

/-! ### The displays (R193) -/

/-- What a module with the digit map `m` shows of the live data `live`: one entry for each of its positions. -/
def litPositions {n : Nat} (m : Vector (Fin n) n) (live : Vector Byte 6) : List (Nat × BitVec 7) :=
  (m.toList.map Fin.val).zip ((live.toList.take n).map fun b => b.extractLsb' 0 7)

theorem State.shown_fourDigit (s : State) : s.shown .fourDigit =
    { lit := litPositions s.cfg.digitMap4 s.chip4.live, pwm := s.chip4.pwm, light := s.chip4.light } := rfl

theorem State.shown_sixDigit (s : State) : s.shown .sixDigit =
    { lit := litPositions s.cfg.digitMap6 s.chip6.live, pwm := s.chip6.pwm, light := s.chip6.light } := rfl

theorem litPositions_length {n : Nat} (hn : n ≤ 6) (m : Vector (Fin n) n) (live : Vector Byte 6) :
    (litPositions m live).length = n := by
  simp [litPositions, hn]

/-- Text position `i` shows the low seven bits of its live byte at the mapped position. -/
theorem litPositions_getElem? {n : Nat} (hn : n ≤ 6) (m : Vector (Fin n) n) (live : Vector Byte 6) {i : Nat}
    (hi : i < n) : (litPositions m live)[i]? = some (m[i].val, live[i].extractLsb' 0 7) := by
  rw [List.getElem?_eq_getElem (by rwa [litPositions_length hn])]
  simp [litPositions]

theorem getLsbD_segments (b : Byte) {k : Nat} (hk : k < 7) : (b.extractLsb' 0 7).getLsbD k = b.getLsbD k := by
  simp [hk]

/-- Settles O35: the two modules show alike, each by its own digit map and chip. -/
theorem displayShowsTheLiveData : Obligations.DisplayShowsTheLiveData := by
  have hlit {n : Nat} (hn : n ≤ 6) (m : Vector (Fin n) n) (live : Vector Byte 6) (i : Nat) (hi : i < n) :
      ∃ segs, (litPositions m live)[i]? = some (m[i].val, segs) ∧ ∀ k < 7, segs.getLsbD k = live[i].getLsbD k :=
    ⟨_, litPositions_getElem? hn m live hi, fun _ => getLsbD_segments _⟩
  intro s
  rw [State.shown_fourDigit, State.shown_sixDigit]
  exact ⟨hlit (by decide) _ _, litPositions_length (by decide) _ _, rfl, rfl,
    hlit (by decide) _ _, litPositions_length (by decide) _ _, rfl, rfl⟩

/-! ### Register writes (R187 to R191) -/

/-- The registers that the spec does not describe, as the tests that a write makes (R185). -/
theorem modelledRegister_eq_false_iff (r : Byte) : modelledRegister r = false ↔
    ¬ (0x01 ≤ r ∧ r ≤ 0x06) ∧ r ≠ REG_COMMIT ∧ r ≠ REG_LIGHT ∧ r ≠ REG_PWM ∧ r ≠ REG_RESET := by
  rw [← Bool.not_eq_true]
  simp only [modelledRegister, Bool.or_eq_true, Bool.and_eq_true, decide_eq_true_eq, beq_iff_eq, not_or, and_assoc]

section
variable (d : ChipDefaults) (b : Byte) (c : Chip)

theorem Chip.writeReg_commit : c.writeReg d REG_COMMIT b = some { c with live := c.stg } := rfl

theorem Chip.writeReg_light : c.writeReg d REG_LIGHT b = some { c with light := b } := rfl

theorem Chip.writeReg_pwm : c.writeReg d REG_PWM b = some { c with pwm := b } := rfl

theorem Chip.writeReg_reset : c.writeReg d REG_RESET b =
    some { c with stg := d.stg, live := d.live, pwm := d.pwm, light := d.light } := rfl

/-- A register that the spec does not describe takes no write (R185). -/
theorem Chip.writeReg_unmodelled {r : Byte} (h : modelledRegister r = false) : c.writeReg d r b = none := by
  obtain ⟨hstg, hcommit, hlight, hpwm, hreset⟩ := (modelledRegister_eq_false_iff r).mp h
  rw [Chip.writeReg, if_neg hstg, if_neg hcommit, if_neg hlight, if_neg hpwm, if_neg hreset]

end

/-- The gaps between the registers of R185. -/
theorem modelledRegister_gap {r : Byte}
    (h : r = 0x00 ∨ (0x07 ≤ r ∧ r ≤ 0x0B) ∨ (0x0E ≤ r ∧ r ≤ 0x18) ∨ (0x1A ≤ r ∧ r ≤ 0xFE)) :
    modelledRegister r = false := by
  rw [modelledRegister_eq_false_iff, REG_COMMIT, REG_LIGHT, REG_PWM, REG_RESET]
  bv_omega

/-- The register of `STG[i+1]` (R185). -/
theorem stgRegister (i : Nat) : BitVec.ofNat 8 (0x01 + i) = REG_DATA + BitVec.ofNat 8 i := BitVec.ofNat_add 0x01 i

/-- Settles O36: one rule per register, and none for the gaps between them. -/
theorem chipRegisterWrites : Obligations.ChipRegisterWrites := fun d c b =>
  ⟨fun i hi => stgRegister i ▸ Chip.writeReg_stg d hi b c, Chip.writeReg_commit d b c, Chip.writeReg_light d b c,
    Chip.writeReg_pwm d b c, Chip.writeReg_reset d b c,
    fun _ hr => Chip.writeReg_unmodelled d b c (modelledRegister_gap hr)⟩

/-- Settles O38: a staging transaction that stops early leaves the chip staged with the bytes it carried. -/
theorem cutShortStagingKeepsTheRest : Obligations.CutShortStagingKeepsTheRest := by
  intro d c data hlength
  refine ⟨c.staged data, Chip.receiveAll_stage d c hlength, fun i hi => ?_, rfl, rfl, rfl⟩
  refine (getElem_overlay data c.stg hi).trans ?_
  split
  · next hreached => rw [List.getElem?_eq_getElem hreached, Option.getD_some]
  · next hbeyond => rw [List.getElem?_eq_none (Nat.le_of_not_lt hbeyond), Option.getD_none]

end Sys2Proof.Machine
end

section
/-! SUPPORT. What carrying one event makes of each chip (spec/60_exceptions.md R181, R186). -/
namespace Sys2Proof.Machine

/-- A byte is carried in the open transaction, after the bus master's choice, and each chip hears it. -/
theorem carry_byte {s t : State} {b : Byte} {o : OpenTxn} (h : carry (.byte b) s = .next t) (ho : s.txn = some o) :
    t.txn = some { o.cutUnless s.inputs.deliver with ptrSet := true } ∧
    ∀ u, (s.chip u).hear ((o.cutUnless s.inputs.deliver).reaches (s.cfg.addr u)) (s.cfg.defaults u) o.ptrSet b =
      some (t.chip u) := by
  simp only [carry, ho] at h
  obtain ⟨-, htxn, hhear⟩ := carryByte_next h
  exact ⟨htxn, hhear⟩

/-- A byte does not reach a chip with another address, nor any chip once a part of its transaction is lost. -/
theorem carry_byte_unreached {s t : State} {b : Byte} {o : OpenTxn} (h : carry (.byte b) s = .next t)
    (ho : s.txn = some o) (u : DisplayTarget)
    (hdeaf : o.addr ≠ s.cfg.addr u ∨ o.cut = true ∨ s.inputs.deliver = false) : t.chip u = s.chip u := by
  obtain hsame | ⟨b', o', -, ⟨ho', haddr, huncut, hdelivered⟩, -⟩ := carry_chip h u
  · exact hsame
  · obtain rfl : o = o' := Option.some.inj (ho.symm.trans ho')
    simp [haddr, huncut, hdelivered] at hdeaf

/-- A delivered byte of an uncut transaction is received by the chip that it is addressed to. -/
theorem carry_byte_received {s t : State} {b : Byte} {o : OpenTxn} (h : carry (.byte b) s = .next t) (u : DisplayTarget)
    (hreceives : s.Receives u b o) : (s.chip u).receive (s.cfg.defaults u) o.ptrSet b = some (t.chip u) := by
  obtain ⟨ho, haddr, huncut, hdelivered⟩ := hreceives
  have hhear := (carry_byte h ho).2 u
  rwa [hdelivered, OpenTxn.cutUnless_true, (OpenTxn.reaches_iff _ _).mpr ⟨haddr, huncut⟩] at hhear

/-- The first byte of a transaction that a chip receives sets its pointer, a later one is written there (R186). -/
theorem Chip.receive_cases {d : ChipDefaults} {p : Bool} {b : Byte} {c c' : Chip} (h : c.receive d p b = some c') :
    (p = false → c' = { c with ptr := b }) ∧
    (p = true → ∃ x, c.writeReg d c.ptr b = some x ∧ c' = { x with ptr := c.ptr + 1 }) := by
  cases p with
  | false => exact ⟨fun _ => (Option.some.inj h).symm, nofun⟩
  | true =>
    obtain ⟨x, hx, rfl⟩ := Option.map_eq_some_iff.mp h
    exact ⟨nofun, fun _ => ⟨x, hx, rfl⟩⟩

/-- Settles O37: a START and a STOP touch the transaction alone, and a byte is heard by each chip in the open one. -/
theorem onlyTheAddressedChipActs : Obligations.OnlyTheAddressedChipActs := by
  intro s t e h
  refine ⟨fun hbyte => ?_, ?_, ?_, ?_⟩
  · have hsame (u : DisplayTarget) : t.chip u = s.chip u :=
      (carry_chip h u).resolve_right fun ⟨b, _, he, _⟩ => hbyte b he
    exact ⟨hsame .fourDigit, hsame .sixDigit⟩
  · rintro a rfl
    cases h
    exact ⟨_, rfl, rfl, rfl, rfl⟩
  · rintro rfl
    cases h
    rfl
  · rintro b o rfl ho
    have hacts (u : DisplayTarget) (haddr : o.addr = s.cfg.addr u) (huncut : o.cut = false)
        (hdelivered : s.inputs.deliver = true) :=
      Chip.receive_cases (carry_byte_received h u ⟨ho, haddr, huncut, hdelivered⟩)
    exact ⟨⟨_, (carry_byte h ho).1, rfl, rfl, rfl⟩, carry_byte_unreached h ho .fourDigit,
      carry_byte_unreached h ho .sixDigit, hacts .fourDigit, hacts .sixDigit⟩

end Sys2Proof.Machine
end

section
/-! SUPPORT. Power cycles along a step: what they make of the open transaction, of the chips and of their currents
(spec/60_exceptions.md R185, R191, R192, R196, spec/70_reset_and_hazards.md R204, R205). -/
namespace Sys2Proof.Machine

/-! ### The open transaction -/

/-- A cut at `a` marks the transactions that are open to `a`, and moves nothing else. -/
theorem cutAt_eq (a : BusAddr) : cutAt a = fun o => { o with cut := o.cut || o.addr == a } := funext fun o => calc
  cutAt a o = ⟨(cutAt a o).addr, (cutAt a o).ptrSet, (cutAt a o).cut⟩ := rfl
  _ = { o with cut := o.cut || o.addr == a } := by rw [cutAt_addr, cutAt_ptrSet, cutAt_cut]

/-- A cut that depends on a power cycle, as one function of the open transaction. -/
theorem ite_map_cutAt (cycled : Bool) (a : BusAddr) (t : Option OpenTxn) :
    (if cycled then t.map (cutAt a) else t) = t.map fun o => { o with cut := o.cut || (cycled && o.addr == a) } := by
  cases cycled with
  | false => simp
  | true => simp [cutAt_eq]

/-- The chip that the transaction `o` is addressed to is power-cycled in the move `i`. -/
def Inputs.cuts (i : Inputs) (cfg : Config) (o : OpenTxn) : Bool :=
  (i.cycle4 && o.addr == cfg.addr4) || (i.cycle6 && o.addr == cfg.addr6)

theorem Inputs.cuts_iff {i : Inputs} {cfg : Config} {o : OpenTxn} :
    i.cuts cfg o = true ↔ ∃ u, i.cycles u = true ∧ o.addr = cfg.addr u := by
  simp only [Inputs.cuts, Bool.or_eq_true, Bool.and_eq_true, beq_iff_eq]
  constructor
  · rintro (h4 | h6)
    · exact ⟨.fourDigit, h4⟩
    · exact ⟨.sixDigit, h6⟩
  · rintro ⟨_ | _, h⟩
    · exact .inl h
    · exact .inr h

/-- The environment's move cuts the open transaction off if it is open to a chip that loses its power. -/
theorem State.sample_txn (s : State) :
    s.sample.txn = s.txn.map fun o => { o with cut := o.cut || s.sample.inputs.cuts s.cfg o } := by
  obtain ⟨hcfg, -, htxn, -, -⟩ := s.nextInputs_frame
  obtain ⟨hcfg', -, hinputs, -, -⟩ := s.nextInputs.powerCycle4_frame
  rw [State.sample_inputs, State.sample, State.powerCycle6_txn, hinputs, hcfg', State.powerCycle4_txn, hcfg, htxn,
    ite_map_cutAt, ite_map_cutAt, Option.map_map]
  simp [Inputs.cuts, Function.comp_def, Bool.or_assoc]

/-- Settles O59: the environment's move cuts the transaction off at its own chip and nowhere else. -/
theorem powerCycleCutsTheOpenTransaction : Obligations.PowerCycleCutsTheOpenTransaction := by
  intro s
  rw [State.sample_txn]
  refine ⟨fun hnone => by rw [hnone]; rfl, fun o ho => ?_⟩
  rw [ho, Option.map_some, ← Inputs.cuts_iff]
  exact ⟨fun hcut => by rw [hcut, Bool.or_true],
    fun hkept => by rw [Bool.eq_false_of_not_eq_true hkept, Bool.or_false]⟩

/-- A transaction that is addressed to a chip power-cycled in the step is cut off before the step's event. -/
theorem State.cut_of_cycles {s : State} {u : DisplayTarget} {o : OpenTxn} (hcycle : s.sample.inputs.cycles u = true)
    (ho : s.sample.txn = some o) (haddr : o.addr = s.cfg.addr u) : o.cut = true := by
  rw [State.sample_txn] at ho
  obtain ⟨before, -, rfl⟩ := Option.map_eq_some_iff.mp ho
  have hcut : s.sample.inputs.cuts s.cfg before = true := Inputs.cuts_iff.mpr ⟨u, hcycle, haddr⟩
  simp [hcut]

/-! ### The chips -/

theorem State.sample_chip_kept {s : State} {u : DisplayTarget} (h : s.sample.inputs.cycles u = false) :
    s.sample.chip u = s.chip u := by
  rw [State.sample_chip, h]
  rfl

/-- Settles O41: without a power cycle a chip changes by a byte that it receives, and that is a delivered one. -/
theorem chipsChangeOnlyByBytesOrPowerCycle : Obligations.ChipsChangeOnlyByBytesOrPowerCycle := by
  intro s t h
  refine ⟨fun hrst => ?_, fun hlost => ?_⟩
  · rw [Option.eq_none_iff_forall_not_mem]
    intro e he
    obtain ⟨hrunning, -⟩ := State.handedOver_eq_some.mp he
    simp [hrst] at hrunning
  · have hkept (u : DisplayTarget) (hcycle : s.sample.inputs.cycles u = false) : t.chip u = s.chip u := by
      obtain hsame | ⟨b, o, hover, hreceives, -⟩ := step_chip h u
      · exact hsame.trans (State.sample_chip_kept hcycle)
      · obtain hnone | hdropped := hlost
        · exact absurd hover (hnone b)
        · simp [hreceives.delivered] at hdropped
    exact ⟨hkept .fourDigit, hkept .sixDigit⟩

/-- Settles O42: the power cycle comes first, and the transaction that could still reach the chip is cut off. -/
theorem powerCycleRestoresDefaults : Obligations.PowerCycleRestoresDefaults := by
  intro s t u h hcycle
  constructor
  · obtain hsame | ⟨b, o, -, ⟨ho, haddr, huncut, -⟩, -⟩ := step_chip h u
    · rw [hsame, State.sample_chip, if_pos hcycle]
    · have hcut := State.cut_of_cycles hcycle ho (haddr.trans (by rw [s.sample_frame.1]))
      simp [huncut] at hcut
  · rintro ⟨b, o, -, ho, haddr, -, huncut, -⟩
    simp [State.cut_of_cycles hcycle ho haddr] at huncut

/-! ### The current -/

/-- A chip whose current limit is its default one runs above 20 mA (R185, D28). -/
theorem milliamps_aboveLimit {d : ChipDefaults} (h : aboveLimit d = true) :
    ∃ mA, milliamps d d.light = some mA ∧ 20 < mA := by
  simpa [aboveLimit, Option.any_eq_true] using h

/-- A step that hands an event over carries it from the state after the environment's move. -/
theorem step_handedOver {s t : State} {e : Event} (h : step s = .next t) (he : s.handedOver = some e) :
    ∃ v, carry e s.sample = .next v ∧ t = v.advance := by
  obtain ⟨hrst, hactive, hready, hpresented⟩ := State.handedOver_eq_some.mp he
  rw [step_eq, sequencerPhase, hrst, if_neg Bool.false_ne_true, if_pos hactive, if_pos hready] at h
  obtain ⟨e', v, he', hcarry, rfl⟩ := emit_next h
  obtain rfl : e = e' := Option.some.inj (hpresented.symm.trans he')
  exact ⟨v, hcarry, rfl⟩

/-- A data byte that reaches a chip is written at its pointer. -/
theorem step_dataReaches {s t : State} {u : DisplayTarget} (h : step s = .next t) (hdata : s.dataReaches u) :
    ∃ b c, (s.sample.chip u).writeReg (s.cfg.defaults u) (s.sample.chip u).ptr b = some c ∧
      t.chip u = { c with ptr := (s.sample.chip u).ptr + 1 } := by
  obtain ⟨b, o, hover, ho, haddr, hset, huncut, hdelivered⟩ := hdata
  obtain ⟨v, hcarry, rfl⟩ := step_handedOver h hover
  rw [← s.sample_frame.1] at haddr ⊢
  obtain ⟨c, hwrite, hchip⟩ :=
    (Chip.receive_cases (carry_byte_received hcarry u ⟨ho, haddr, huncut, hdelivered⟩)).2 hset
  exact ⟨b, c, hwrite, (v.advance_chip u).trans hchip⟩

/-- A power cycle and a write to the reset register both put the default current limit back. -/
theorem step_light_default {s t : State} {u : DisplayTarget} (h : step s = .next t)
    (hcause : s.sample.inputs.cycles u = true ∨ (s.dataReaches u ∧ (s.sample.chip u).ptr = REG_RESET)) :
    (t.chip u).light = (s.cfg.defaults u).light := by
  obtain hcycle | ⟨hdata, hptr⟩ := hcause
  · rw [(powerCycleRestoresDefaults s t u h hcycle).1]
    rfl
  · obtain ⟨b, c, hwrite, hchip⟩ := step_dataReaches h hdata
    rw [hptr, Chip.writeReg_reset, Option.some.injEq] at hwrite
    rw [hchip, ← hwrite]

/-- Settles O60: the default current limit is back, and in a state of the invariant, as in State.reset, it means more
than 20 mA. -/
theorem defaultCurrentIsAboveTheLimit : Obligations.DefaultCurrentIsAboveTheLimit := by
  constructor
  · intro s t u hs h hcause
    rw [State.current, step_light_default h hcause, strapsNeverChange s t h]
    exact milliamps_aboveLimit (hs.currents u)
  · intro u
    have hlight : (State.reset.chip u).light = (Config.build.defaults u).light := by cases u <;> rfl
    rw [State.current, hlight]
    exact milliamps_aboveLimit (build_aboveLimit u)

end Sys2Proof.Machine
end

section
/-! SUPPORT. The block before INIT (spec/60_exceptions.md R182, spec/70_reset_and_hazards.md R203). -/
namespace Sys2Proof.Machine

/-- While the bus is not open no command is being sequenced (R182). -/
theorem State.Inv.idle_of_closed {s : State} (hs : s.Inv) (hinit : s.seq.initDone = false) : s.seq.active = false := by
  by_contra hactive
  rw [Bool.not_eq_false] at hactive
  obtain ⟨hopen, -⟩ := (State.seqAgrees_of_active hactive).mp hs.sequencer
  simp [hinit] at hopen

/-- Before INIT every other word is rejected, as illegal or for the closed bus. -/
theorem Sequencer.answer_rejected {q : Sequencer} {w : CmdWord} {r : RandomWord} (hinit : q.initDone = false)
    (hop : opField w ≠ 1) : ∃ k, q.answer w r = q.flag k := by
  unfold Sequencer.answer
  split
  · exact ⟨.illegal, rfl⟩
  · exact ⟨.noinit, if_pos ⟨hop, hinit⟩⟩

/-- An idle block with a closed bus stays so in every step but the acceptance of an INIT. -/
theorem sequencerPhase_closed {s t : State} (hinit : s.seq.initDone = false) (hidle : s.seq.active = false)
    (h : sequencerPhase s = .next t)
    (hno : ¬ (s.inputs.cmdValid = true ∧ s.inputs.rst = false ∧ opField s.inputs.cmdWord = 1)) :
    t.seq.initDone = false ∧ t.seq.active = false := by
  obtain ⟨-, rfl⟩ | ⟨-, hactive, -⟩ | ⟨hrst, -, hvalid, -⟩ | ⟨-, rfl⟩ := sequencerPhase_next h
  · exact ⟨rfl, rfl⟩
  · simp [hidle] at hactive
  · rw [sequencerPhase_presented hrst hidle hvalid, exec_decodeCmd ((State.cmdReady_iff s).mpr ⟨hidle, hrst⟩)] at h
    obtain ⟨k, hk⟩ := Sequencer.answer_rejected (r := s.inputs.rngValue) hinit fun hop => hno ⟨hvalid, hrst, hop⟩
    rw [hk] at h
    cases h
    simp [hinit, hidle]
  · exact ⟨hinit, hidle⟩

/-- Settles O49: the invariant makes a block with a closed bus idle, and an idle block hands nothing over. -/
theorem nothingHappensBeforeInit : Obligations.NothingHappensBeforeInit := by
  intro s t hs hinit h
  rw [← s.sample_frame.2] at hinit
  have hidle := (State.sample_inv hs).idle_of_closed hinit
  rw [step_eq] at h
  refine ⟨Option.eq_none_iff_forall_not_mem.mpr fun e he => ?_, sequencerPhase_closed hinit hidle h⟩
  obtain ⟨-, hactive, -⟩ := State.handedOver_eq_some.mp he
  simp [hidle] at hactive

end Sys2Proof.Machine
end

section
/-! SUPPORT. Block reset (spec/70_reset_and_hazards.md R200): the reset step goes before every other part of the
sequencer's step, and the outputs are held at 0 while `rst = 1`. -/
namespace Sys2Proof.Machine

/-- Reset has priority: neither the sequencer's state nor the handshake ports are consulted. -/
theorem sequencerPhase_reset {s : State} (hrst : s.inputs.rst = true) : sequencerPhase s = .next s.blockReset :=
  if_pos hrst

theorem State.cmdReady_in_reset {s : State} (hrst : s.inputs.rst = true) : s.cmdReady = false := by
  simp [State.cmdReady, hrst]

theorem State.evValid_in_reset {s : State} (hrst : s.inputs.rst = true) : s.evValid = false := by
  simp [State.evValid, hrst]

theorem State.busEn_in_reset {s : State} (hrst : s.inputs.rst = true) : s.busEn = false := by
  simp [State.busEn, hrst]

theorem State.status_in_reset {s : State} (hrst : s.inputs.rst = true) : s.status = 0x00 :=
  if_pos hrst

/-- Settles O30: the sampled state takes the reset step whatever it was doing, and in reset no event is driven, so
the event ports are 0 with the others. -/
theorem blockReset : Obligations.BlockReset := by
  constructor
  · intro s hrst
    rw [step_eq, sequencerPhase_reset hrst]
    rfl
  · intro s hrst
    have hvalid : s.evValid = false := State.evValid_in_reset hrst
    obtain ⟨hkind, hdata⟩ := State.evPorts_none (State.drivenEvent_invalid hvalid)
    exact ⟨State.cmdReady_in_reset hrst, hvalid, State.busEn_in_reset hrst, State.status_in_reset hrst, hkind, hdata,
      rfl⟩

end Sys2Proof.Machine
end
